-- ==== Sys2Proof/Word.lean ====
section
/-! DEFINITION. The data types of ESE18 that every other file uses: bytes, words, the number type `F`
(00_scope.md R12), the closed enumerations of 10_state.md R33 and R42, and the six rejection causes of
30_encoding.md R115. Types only: what is computed on them stands in Sys2Proof/Machine. -/

namespace Sys2Proof

/-- One byte (used only where a word is written down as bytes, R85). -/
abbrev Byte := BitVec 8

/-- A register value, a response word, the `DATA` field (R81, R110). -/
abbrev Word := BitVec 32

/-- A command word `CW` (R110). -/
abbrev CommandWord := BitVec 64

/-- The number type of every real quantity: one IEEE 754 binary32 bit pattern (R12). A type of its own, so
that no integer operation of bit vectors can be applied to it by accident. -/
structure F where
  bits : BitVec 32
  deriving DecidableEq, Repr

/-- The closed enumeration of waveform kinds, in the source's order (R33). -/
inductive WaveformKind where
  | sine | triangle | sawtooth | square | pulse25 | pwm | superSaw | noise
  deriving DecidableEq, Repr

/-- The five stages of an envelope (R42, R210). The codes 5, 6, 7 never occur, so they have no constructor. -/
inductive Stage where
  | idle | attack | decay | sustain | release
  deriving DecidableEq, Repr

/-- Why a command word is rejected: the six causes (a) to (f) of R115 and R352. -/
inductive Reject where
  /-- (a) `OPC` is 0x03..0xFF. -/
  | reservedOpc
  /-- (b) `RSV` is not zero. -/
  | reservedField
  /-- (c) `OPC` = 0x00 and a bit of 55:0 is set. -/
  | nopPayload
  /-- (d) a write to an unmapped or read-only address. -/
  | badWrite
  /-- (e) a read of an unmapped address; the only cause that also responds (R115, R120). -/
  | badRead
  /-- (f) an `F`-format write whose `DATA` is a NaN. -/
  | nanOperand
  deriving DecidableEq, Repr

/-- The access column of the register address map (R88). -/
inductive Access where
  | writeOnly | readWrite | readClear | readOnly | unmapped
  deriving DecidableEq, Repr

/-- The `DATA` formats (R111). -/
inductive Format where
  | N | O | C | F | K | B | R | Z
  deriving DecidableEq, Repr

/-- The timbre families of the wavetable catalogue (R171). -/
inductive TimbreFamily where
  | sineSawMorph | formantLike | pulseWidthSweep | quantizationSweep
  | additiveHarmonics | fmModulated | hardSync | noiseTexture
  deriving DecidableEq, Repr

end Sys2Proof
end

