-- ==== Sys2Proof/Config.lean ====
section
/-! DEFINITION. The configuration of ESE18. First the numerics record behind which the number format stands (00_scope.md
R12, D2), then the literals of the rules, the parameter registers and the configuration itself: every parameter that R8
fixes by decision and R9 and R18 leave open is a field of it. Last the values of the default format: the constants of R7, the
defaults of R8, and the free values, which are constants WITHOUT A BODY: nothing in Lean can compute one. -/

namespace Sys2Proof

/-! ### The number format (R12) -/

/-- The real numbers that the rules write down: the decimals of R7, R8, R17 and R31 and those of the formulas. What a
literal is in a number format is a field of the format, since R13 rounds it to the format. -/
inductive Lit where
  | zero | quarter | half | one | minusOne | two | four | seven | twelve
  /-- 255, the number of table frames minus one (R177) -/
  | c255
  /-- 2048, the samples of a table frame (R176) -/
  | c2048
  /-- 0.001 (R211) -/
  | milli
  /-- the constants of R7 and R17 -/
  | a4Hz | pwMin | pwMax | cutMin | cutMax | lfoMin | lfoMax | resScale | driveGain | pitchDepth
  | lfoFltDepth | cutModScale | twoPi
  /-- the defaults of R8 -/
  | fsReset | fsMin | fsMax | ssUnit | fcMax | driveMax | tMin | tMax | bioCutBase | bioCutSpan | velMax
  | g1 | g2 | g3 | g4
  /-- the reset values of R31 that are none of the above: 2000 Hz, 10 ms, 100 ms, 0.7, 200 ms -/
  | cutReset | attackReset | decayReset | sustainReset | releaseReset
  deriving DecidableEq, Repr

/-- The decimal a literal is, as numerator and denominator. -/
def Lit.decimal : Lit → Int × Nat
  | zero => (0, 1)
  | quarter => (1, 4)
  | half => (1, 2)
  | one => (1, 1)
  | minusOne => (-1, 1)
  | two => (2, 1)
  | four => (4, 1)
  | seven => (7, 1)
  | twelve => (12, 1)
  | c255 => (255, 1)
  | c2048 => (2048, 1)
  | milli => (1, 1000)
  | a4Hz => (440, 1)
  | pwMin => (5, 100)
  | pwMax => (95, 100)
  | cutMin => (20, 1)
  | cutMax => (20000, 1)
  | lfoMin => (1, 100)
  | lfoMax => (50, 1)
  | resScale => (4, 1)
  | driveGain => (3, 1)
  | pitchDepth => (1, 10)
  | lfoFltDepth => (5, 10)
  | cutModScale => (4, 1)
  | twoPi => (6283185307179586, 1000000000000000)
  | fsReset => (48000, 1)
  | fsMin => (8000, 1)
  | fsMax => (192000, 1)
  | ssUnit => (1, 100)
  | fcMax => (5, 10)
  | driveMax => (1, 1)
  | tMin => (1, 10)
  | tMax => (10000, 1)
  | bioCutBase => (200, 1)
  | bioCutSpan => (7800, 1)
  | velMax => (127, 1)
  | g1 => (9892, 10000)
  | g2 => (-4342, 10000)
  | g3 => (1381, 10000)
  | g4 => (-202, 10000)
  | cutReset => (2000, 1)
  | attackReset => (10, 1)
  | decayReset => (100, 1)
  | sustainReset => (7, 10)
  | releaseReset => (200, 1)

/-- A number format: what the rules do with real quantities, and nothing else (R12 to R16). Every definition of the
machine takes its arithmetic from such a record, so another format can take the place of binary32. -/
structure Numerics (α : Type) where
  /-- the value an accepted `F`-format `DATA` stands for (R111) -/
  ofData : Word → α
  /-- the 32 bits a register of this value reads as (R323) -/
  toData : α → Word
  /-- the value of a literal (R13) -/
  lit : Lit → α
  /-- `itof` (R16) -/
  itof : Int → α
  /-- `floor` (R16) -/
  floor : α → Int
  /-- `|x|` (R14) -/
  abs : α → α
  add : α → α → α
  sub : α → α → α
  mul : α → α → α
  div : α → α → α
  /-- `<` (R14) -/
  lt : α → α → Bool
  /-- `≤` (R14) -/
  le : α → α → Bool

/-! ### The parameter registers (R31) -/

/-- The 27 global parameter registers, each holding the value after clamping (R31, R32). -/
structure ParamsOf (α : Type) where
  /-- `OSC1_WAVE` (0x10) -/
  osc1Wave : WaveformKind
  /-- `OSC2_WAVE` (0x11) -/
  osc2Wave : WaveformKind
  /-- `OSC1_DETUNE` (0x12) -/
  osc1Detune : α
  /-- `OSC2_DETUNE` (0x13) -/
  osc2Detune : α
  /-- `OSC1_PW` (0x14) -/
  osc1Pw : α
  /-- `OSC2_PW` (0x15) -/
  osc2Pw : α
  /-- `OSC_MIX` (0x16) -/
  oscMix : α
  /-- `WT_MIX` (0x17) -/
  wtMix : α
  /-- `WT_TABLE` (0x18) -/
  wtTable : BitVec 3
  /-- `WT_POS` (0x19) -/
  wtPos : α
  /-- `FLT_CUTOFF` (0x1A) -/
  fltCutoff : α
  /-- `FLT_RES` (0x1B) -/
  fltRes : α
  /-- `FLT_ENV_AMT` (0x1C) -/
  fltEnvAmt : α
  /-- `FLT_DRIVE` (0x1D) -/
  fltDrive : α
  /-- `AMP_ATTACK` (0x1E) -/
  ampAttack : α
  /-- `AMP_DECAY` (0x1F) -/
  ampDecay : α
  /-- `AMP_SUSTAIN` (0x20) -/
  ampSustain : α
  /-- `AMP_RELEASE` (0x21) -/
  ampRelease : α
  /-- `FENV_ATTACK` (0x22) -/
  fenvAttack : α
  /-- `FENV_DECAY` (0x23) -/
  fenvDecay : α
  /-- `FENV_SUSTAIN` (0x24) -/
  fenvSustain : α
  /-- `FENV_RELEASE` (0x25) -/
  fenvRelease : α
  /-- `LFO_RATE` (0x26) -/
  lfoRate : α
  /-- `LFO_WAVE` (0x27) -/
  lfoWave : WaveformKind
  /-- `LFO_TO_FILTER` (0x28) -/
  lfoToFilter : α
  /-- `LFO_TO_PITCH` (0x29) -/
  lfoToPitch : α
  /-- `MASTER_VOL` (0x2A) -/
  masterVol : α
  deriving DecidableEq, Repr

/-- The parameter registers of the default format. -/
abbrev Params := ParamsOf F

/-! ### The configuration -/

/-- What a model of ESE18 takes as configuration: the parameters of R8, among them the number format and the reset
values, and the open ones of R9 and R18. A claim may quantify over it. -/
structure ConfigOf (α : Type) where
  /-- `NUM`: the number format (R12) -/
  num : Numerics α
  /-- sine of an argument in radians (R18) -/
  fsin : α → α
  /-- hyperbolic tangent (R18) -/
  ftanh : α → α
  /-- 2 to the power of the argument (R18) -/
  fexp2 : α → α
  /-- `G1` to `G4`: the filter quartic's coefficients -/
  g1 : α
  g2 : α
  g3 : α
  g4 : α
  /-- the filter coefficient as a function of `G1` to `G4` and the normalized cutoff (R194) -/
  gPoly : α → α → α → α → α → α
  /-- `FS_MIN`, `FS_MAX`: the sample-rate clamp, Hz -/
  fsMin : α
  fsMax : α
  /-- `FS_RESET`: the sample rate after reset, Hz -/
  fsReset : α
  /-- `SS_UNIT`: SuperSaw phase spacing per unit of detune -/
  ssUnit : α
  /-- `FC_MAX`: clamp on the normalized cutoff -/
  fcMax : α
  /-- `DRIVE_MAX`: upper clamp of drive -/
  driveMax : α
  /-- `T_MIN`, `T_MAX`: clamp of the attack, decay and release times, ms -/
  tMin : α
  tMax : α
  /-- `BIO_CUT_BASE`, `BIO_CUT_SPAN`: the hrv to cutoff map, Hz -/
  bioCutBase : α
  bioCutSpan : α
  /-- `VEL_MAX`: velocity normalisation divisor -/
  velMax : α
  /-- `FRAMECOUNT_BITS`: width of the `PROCESS` frame count -/
  frameCountBits : Nat
  /-- the reset values of the parameter registers (R31, R62) -/
  resetParams : ParamsOf α
  /-- the reset values of `CTRL.LFO_RETRIG` and `STATUS.CMDERR` (R36, R62) -/
  resetLfoRetrig : Bool
  resetCmdErr : Bool
  /-- the reset value of a filter's transient cutoff (R41, R62) -/
  resetCutoff : α
  /-- `WT_ROM`: table, table frame, sample (R172) -/
  wtRom : Nat → Nat → Nat → α
  /-- `NOISE`: the k-th draw of a run (R20) -/
  draw : Nat → α

/-- A configuration of the default format. -/
abbrev Config := ConfigOf F

/-- `GCoef` (R194): the filter coefficient at the normalized cutoff `fc`. -/
def ConfigOf.gCoef {α : Type} (c : ConfigOf α) (fc : α) : α := c.gPoly c.g1 c.g2 c.g3 c.g4 fc

namespace Config

/-! ### Free values (no body) -/

/-- FREE: the bits of the sine of an argument, before the named properties of R18 are imposed (log 3). -/
opaque rawSin : BitVec 32 → BitVec 32
/-- FREE: the bits of the hyperbolic tangent of a positive argument (log 3). -/
opaque rawTanh : BitVec 32 → BitVec 32
/-- FREE: the bits of 2 to the power of an argument (log 3). -/
opaque rawExp2 : BitVec 32 → BitVec 32
/-- FREE: the bits of the wavetable entry (table, table frame, sample) (R9, R172; log 5). -/
opaque rawRom : Nat → Nat → Nat → BitVec 32
/-- FREE: the bits of the k-th noise sample (R9, R20; log 6). -/
opaque rawDraw : Nat → BitVec 32
/-- FREE: the bits of the NaN an invalid or NaN-operand operation makes, by operation (0 add, 1 multiply,
2 divide) and operands; R13 does not say which NaN it is (log 2). -/
opaque rawNaN : Nat → BitVec 32 → BitVec 32 → BitVec 32

/-! ### Constants the source fixes (R7). Each bit pattern is the binary32 nearest to the decimal in the comment
(R13); Tests/Slice0.lean checks them against the decimals. -/

/-- `N_TABLES`, `N_FRAMES`, `N_SAMPLES`. `N_VOICES` = 16 is the length of the voice vector of State. -/
def nTables : Nat := 8
def nFrames : Nat := 256
def nSamples : Nat := 2048
/-- `STEAL_SLOT` -/
def stealSlot : Fin 16 := 0
/-- `A4_NOTE` -/
def a4Note : Int := 69
/-- `A4_HZ` = 440 -/
def a4Hz : F := ⟨0x43DC0000#32⟩
/-- `PW_MIN` = 0.05 -/
def pwMin : F := ⟨0x3D4CCCCD#32⟩
/-- `PW_MAX` = 0.95 -/
def pwMax : F := ⟨0x3F733333#32⟩
/-- `CUT_MIN` = 20 -/
def cutMin : F := ⟨0x41A00000#32⟩
/-- `CUT_MAX` = 20000 -/
def cutMax : F := ⟨0x469C4000#32⟩
/-- `LFO_MIN` = 0.01 -/
def lfoMin : F := ⟨0x3C23D70A#32⟩
/-- `LFO_MAX` = 50 -/
def lfoMax : F := ⟨0x42480000#32⟩
/-- `RES_SCALE` = 4 -/
def resScale : F := ⟨0x40800000#32⟩
/-- `DRIVE_GAIN` = 3 -/
def driveGain : F := ⟨0x40400000#32⟩
/-- `PITCH_DEPTH` = 0.1 -/
def pitchDepth : F := ⟨0x3DCCCCCD#32⟩
/-- `LFO_FLT_DEPTH` = 0.5 -/
def lfoFltDepth : F := ⟨0x3F000000#32⟩
/-- `CUT_MOD_SCALE` = 4 -/
def cutModScale : F := ⟨0x40800000#32⟩
/-- `TWO_PI` (R17) -/
def twoPi : F := ⟨0x40C90FDB#32⟩

/-! ### Defaults of the parameters the spec fixes by decision (R8) -/

/-- `FS_RESET` = 48000 -/
def fsResetDefault : F := ⟨0x473B8000#32⟩
/-- `FS_MIN` = 8000 -/
def fsMinDefault : F := ⟨0x45FA0000#32⟩
/-- `FS_MAX` = 192000 -/
def fsMaxDefault : F := ⟨0x483B8000#32⟩
/-- `SS_UNIT` = 0.01 -/
def ssUnitDefault : F := ⟨0x3C23D70A#32⟩
/-- `FC_MAX` = 0.5 -/
def fcMaxDefault : F := ⟨0x3F000000#32⟩
/-- `DRIVE_MAX` = 1 -/
def driveMaxDefault : F := ⟨0x3F800000#32⟩
/-- `T_MIN` = 0.1 -/
def tMinDefault : F := ⟨0x3DCCCCCD#32⟩
/-- `T_MAX` = 10000 -/
def tMaxDefault : F := ⟨0x461C4000#32⟩
/-- `BIO_CUT_BASE` = 200 -/
def bioCutBaseDefault : F := ⟨0x43480000#32⟩
/-- `BIO_CUT_SPAN` = 7800 -/
def bioCutSpanDefault : F := ⟨0x45F3C000#32⟩
/-- `VEL_MAX` = 127 -/
def velMaxDefault : F := ⟨0x42FE0000#32⟩
/-- `G1` = 0.9892 -/
def g1Default : F := ⟨0x3F7D3C36#32⟩
/-- `G2` = -0.4342 -/
def g2Default : F := ⟨0xBEDE4F76#32⟩
/-- `G3` = 0.1381 -/
def g3Default : F := ⟨0x3E0D6A16#32⟩
/-- `G4` = -0.0202 -/
def g4Default : F := ⟨0xBCA57A78#32⟩
/-- `FRAMECOUNT_BITS` = 16 -/
def frameCountBitsDefault : Nat := 16
/-- The reset values of R31: 2000 Hz, 10 ms, 100 ms, 0.7, 200 ms. -/
def cutReset : F := ⟨0x44FA0000#32⟩
def attackReset : F := ⟨0x41200000#32⟩
def decayReset : F := ⟨0x42C80000#32⟩
def sustainReset : F := ⟨0x3F333333#32⟩
def releaseReset : F := ⟨0x43480000#32⟩

end Config

end Sys2Proof
end

