-- ==== Sys2Proof/Machine/Numerics.lean ====
section
/-! DEFINITION. What the rules compute in any number format: the helpers of 00_scope.md R15 and R16, the filter quartic
(42_filter.md R194), the cached envelope rate (43_envelope.md R211), and the configuration with every default of R8 over
a given format. -/

namespace Sys2Proof

namespace Numerics

variable {α : Type}

/-- `clamp(x, lo, hi)` (R15); a NaN is returned as it is. -/
def clamp (num : Numerics α) (x lo hi : α) : α := if num.lt x lo then lo else if num.lt hi x then hi else x

/-- `clamp(x, 0.0, 1.0)`, the commonest domain (R31). -/
def clampUnit (num : Numerics α) (x : α) : α := num.clamp x (num.lit .zero) (num.lit .one)

/-- `Frac(x)` (R16), with the guard for a difference that rounds to 1.0. -/
def frac (num : Numerics α) (x : α) : α :=
  let r := num.sub x (num.itof (num.floor x))
  if num.le (num.lit .one) r then num.lit .zero else r

/-- `Wrap(x)` (R16), for `x` in [0, 2). -/
def wrap (num : Numerics α) (x : α) : α := if num.le (num.lit .one) x then num.sub x (num.lit .one) else x

/-- `Lerp(a, b, t)` = `a + t · (b − a)` (R16). -/
def lerp (num : Numerics α) (a b t : α) : α := num.add a (num.mul t (num.sub b a))

end Numerics

namespace Machine

variable {α : Type}

/-- The quartic of R194 in `w = TWO_PI · fc`, summed left to right. -/
def quartic (num : Numerics α) (g1 g2 g3 g4 fc : α) : α :=
  let w := num.mul (num.lit .twoPi) fc
  let w2 := num.mul w w
  let w3 := num.mul w2 w
  let w4 := num.mul w3 w
  num.add (num.add (num.add (num.mul g1 w) (num.mul g2 w2)) (num.mul g3 w3)) (num.mul g4 w4)

/-- A cached envelope rate (R211): `1 / ((ms · 0.001) · fs)`. -/
def envRate (num : Numerics α) (ms fs : α) : α :=
  num.div (num.lit .one) (num.mul (num.mul ms (num.lit .milli)) fs)

/-- The reset values of the parameter registers (R31). -/
def defaultParams (num : Numerics α) : ParamsOf α where
  osc1Wave := .sawtooth
  osc2Wave := .sawtooth
  osc1Detune := num.lit .zero
  osc2Detune := num.lit .zero
  osc1Pw := num.lit .half
  osc2Pw := num.lit .half
  oscMix := num.lit .half
  wtMix := num.lit .zero
  wtTable := 0#3
  wtPos := num.lit .zero
  fltCutoff := num.lit .cutReset
  fltRes := num.lit .zero
  fltEnvAmt := num.lit .half
  fltDrive := num.lit .zero
  ampAttack := num.lit .attackReset
  ampDecay := num.lit .decayReset
  ampSustain := num.lit .sustainReset
  ampRelease := num.lit .releaseReset
  fenvAttack := num.lit .attackReset
  fenvDecay := num.lit .decayReset
  fenvSustain := num.lit .sustainReset
  fenvRelease := num.lit .releaseReset
  lfoRate := num.lit .one
  lfoWave := .sine
  lfoToFilter := num.lit .zero
  lfoToPitch := num.lit .zero
  masterVol := num.lit .half

/-- A configuration with the defaults of R8 over the format `num`; the wavetable, the noise and the functions of R18 are
given. -/
def configWith (num : Numerics α) (sin tanh exp2 : α → α) (rom : Nat → Nat → Nat → α) (draw : Nat → α) :
    ConfigOf α where
  num := num
  fsin := sin
  ftanh := tanh
  fexp2 := exp2
  g1 := num.lit .g1
  g2 := num.lit .g2
  g3 := num.lit .g3
  g4 := num.lit .g4
  gPoly := quartic num
  fsMin := num.lit .fsMin
  fsMax := num.lit .fsMax
  fsReset := num.lit .fsReset
  ssUnit := num.lit .ssUnit
  fcMax := num.lit .fcMax
  driveMax := num.lit .driveMax
  tMin := num.lit .tMin
  tMax := num.lit .tMax
  bioCutBase := num.lit .bioCutBase
  bioCutSpan := num.lit .bioCutSpan
  velMax := num.lit .velMax
  frameCountBits := Config.frameCountBitsDefault
  resetParams := defaultParams num
  resetLfoRetrig := false
  resetCmdErr := false
  resetCutoff := num.lit .cutReset
  wtRom := rom
  draw := draw

end Machine

end Sys2Proof
end

