-- ==== Sys2Proof/Machine/Float.lean ====
section
/-! DEFINITION. The default number format (00_scope.md R8, R12 to R17): arithmetic on `F`, IEEE 754 binary32, and the
numerics record `binary32` that hands it to the machine. Round to nearest, ties to even,
gradual underflow, signed zeros, infinities, NaNs, no fused operation, no exception flags.

Every finite binary32 value is an integer multiple of 2^-149. `mag` is that integer's magnitude, `scaled` the signed
integer, and an exact result is a fraction `n / d` in the same unit, which `ofRatio` rounds once. The one rounding
function serves addition, multiplication, division and the conversion of integers. -/

namespace Sys2Proof

namespace F

/-! ### Fields and classes of a pattern (R12) -/

/-- Bit 31. -/
def sign (x : F) : Bool := decide (2 ^ 31 ≤ x.bits.toNat)
/-- Bits 30:23. -/
def expField (x : F) : Nat := x.bits.toNat / 2 ^ 23 % 2 ^ 8
/-- Bits 22:0. -/
def fracField (x : F) : Nat := x.bits.toNat % 2 ^ 23

def isNaN (x : F) : Bool := x.expField == 255 && x.fracField != 0
def isInf (x : F) : Bool := x.expField == 255 && x.fracField == 0
def isFinite (x : F) : Bool := x.expField != 255

/-- The magnitude in units of 2^-149 (R12). For an infinity this is 2^277, above every finite magnitude, so that
one comparison of `scaled` orders the infinities too. -/
def mag (x : F) : Nat :=
  if x.expField = 0 then x.fracField else (2 ^ 23 + x.fracField) * 2 ^ (x.expField - 1)

/-- The signed value in units of 2^-149. -/
def scaled (x : F) : Int := if x.sign then -(x.mag : Int) else (x.mag : Int)

/-- The pattern with sign bit `neg` and bits 30:0 equal to `m`. -/
def build (neg : Bool) (m : Nat) : F := ⟨BitVec.ofNat 32 ((if neg then 2 ^ 31 else 0) + m)⟩

/-- The pattern of an infinity's bits 30:0. -/
def infBits : Nat := 255 * 2 ^ 23

def inf (neg : Bool) : F := build neg infBits
def signedZero (neg : Bool) : F := build neg 0

/-! ### Rounding (R13) -/

/-- `n / d` rounded to an integer, ties to even. -/
def roundHalfEven (n d : Nat) : Nat :=
  if 2 * (n % d) < d then n / d
  else if d < 2 * (n % d) then n / d + 1
  else if n / d % 2 = 0 then n / d else n / d + 1

/-- The exponent step: how many bits the last place of a value with integer part `q` stands above 2^-149. -/
def lastPlace (q : Nat) : Nat := Nat.log2 q - 23

/-- Bits 30:0 of the binary32 nearest to `n / d` units of 2^-149. The significand rounded to `lastPlace` is added
to the exponent field, so that a carry out of it moves to the next binade and, at the top, to infinity. -/
def magBits (n d : Nat) : Nat :=
  min (lastPlace (n / d) * 2 ^ 23 + roundHalfEven n (d * 2 ^ lastPlace (n / d))) infBits

/-- The binary32 nearest to `± n / d` units of 2^-149. -/
def ofRatio (neg : Bool) (n d : Nat) : F := build neg (magBits n d)

/-- One unit 1.0 in units of 2^-149. -/
def unit : Nat := 2 ^ 149

/-- A NaN with the sign and payload bits of `b`: `b` itself if it is a NaN, else `b` with the bits set that make
it a quiet NaN. -/
def asNaN (b : BitVec 32) : F := if (F.mk b).isNaN then ⟨b⟩ else ⟨b ||| 0x7FC00000#32⟩

/-- The NaN that operation `op` makes of its operands: a free value (log 2). -/
def madeNaN (op : Nat) (a b : F) : F := asNaN (Config.rawNaN op a.bits b.bits)

/-! ### The operators of R13 -/

/-- Clears or sets the sign as unary minus does. -/
def neg (a : F) : F := ⟨a.bits ^^^ 0x80000000#32⟩

/-- `|x|` (R14). -/
def abs (a : F) : F := ⟨a.bits &&& 0x7FFFFFFF#32⟩

/-- The rounded value of an exact sum `z` (units of 2^-149); `negZero` is the sign a zero sum takes. -/
def ofSum (z : Int) (negZero : Bool) : F :=
  if z = 0 then signedZero negZero else ofRatio (decide (z < 0)) z.natAbs 1

def add (a b : F) : F :=
  if a.isNaN || b.isNaN then madeNaN 0 a b
  else if a.isInf then (if b.isInf && a.sign != b.sign then madeNaN 0 a b else a)
  else if b.isInf then b
  else ofSum (a.scaled + b.scaled) (a.sign && b.sign)

/-- `a - b` is `a + (-b)`. -/
def sub (a b : F) : F := a.add b.neg

def mul (a b : F) : F :=
  if a.isNaN || b.isNaN then madeNaN 1 a b
  else if a.isInf || b.isInf then
    (if a.mag = 0 || b.mag = 0 then madeNaN 1 a b else inf (a.sign != b.sign))
  else ofRatio (a.sign != b.sign) (a.mag * b.mag) unit

def div (a b : F) : F :=
  if a.isNaN || b.isNaN then madeNaN 2 a b
  else if a.isInf then (if b.isInf then madeNaN 2 a b else inf (a.sign != b.sign))
  else if b.isInf then signedZero (a.sign != b.sign)
  else if b.mag = 0 then (if a.mag = 0 then madeNaN 2 a b else inf (a.sign != b.sign))
  else ofRatio (a.sign != b.sign) (a.mag * unit) b.mag

/-! ### Comparisons (R14): false when an operand is a NaN, and `+0 = -0` -/

def lt (a b : F) : Bool := !a.isNaN && !b.isNaN && decide (a.scaled < b.scaled)
def le (a b : F) : Bool := !a.isNaN && !b.isNaN && decide (a.scaled ≤ b.scaled)
def eqv (a b : F) : Bool := !a.isNaN && !b.isNaN && decide (a.scaled = b.scaled)

/-! ### Literals of the rules -/

def zero : F := ⟨0x00000000#32⟩
def half : F := ⟨0x3F000000#32⟩
def quarter : F := ⟨0x3E800000#32⟩
def one : F := ⟨0x3F800000#32⟩
def minusOne : F := ⟨0xBF800000#32⟩
def two : F := ⟨0x40000000#32⟩
def four : F := ⟨0x40800000#32⟩
def seven : F := ⟨0x40E00000#32⟩
def twelve : F := ⟨0x41400000#32⟩
/-- 255.0, the number of table frames minus one (R177) -/
def c255 : F := ⟨0x437F0000#32⟩
/-- 2048.0, the samples of a table frame (R176) -/
def c2048 : F := ⟨0x45000000#32⟩
/-- 0.001 (R211) -/
def milli : F := ⟨0x3A83126F#32⟩

/-- `floor(x)`, a mathematical integer (R16). -/
def floor (x : F) : Int := x.scaled / (unit : Int)

/-- `itof(n)` (R16). -/
def itof (n : Int) : F := ofRatio (decide (n < 0)) (n.natAbs * unit) 1

/-- The binary32 of each literal (R13). Tests/Slice0.lean checks each against `Lit.decimal`. -/
def ofLit : Lit → F
  | .zero => zero
  | .quarter => quarter
  | .half => half
  | .one => one
  | .minusOne => minusOne
  | .two => two
  | .four => four
  | .seven => seven
  | .twelve => twelve
  | .c255 => c255
  | .c2048 => c2048
  | .milli => milli
  | .a4Hz => Config.a4Hz
  | .pwMin => Config.pwMin
  | .pwMax => Config.pwMax
  | .cutMin => Config.cutMin
  | .cutMax => Config.cutMax
  | .lfoMin => Config.lfoMin
  | .lfoMax => Config.lfoMax
  | .resScale => Config.resScale
  | .driveGain => Config.driveGain
  | .pitchDepth => Config.pitchDepth
  | .lfoFltDepth => Config.lfoFltDepth
  | .cutModScale => Config.cutModScale
  | .twoPi => Config.twoPi
  | .fsReset => Config.fsResetDefault
  | .fsMin => Config.fsMinDefault
  | .fsMax => Config.fsMaxDefault
  | .ssUnit => Config.ssUnitDefault
  | .fcMax => Config.fcMaxDefault
  | .driveMax => Config.driveMaxDefault
  | .tMin => Config.tMinDefault
  | .tMax => Config.tMaxDefault
  | .bioCutBase => Config.bioCutBaseDefault
  | .bioCutSpan => Config.bioCutSpanDefault
  | .velMax => Config.velMaxDefault
  | .g1 => Config.g1Default
  | .g2 => Config.g2Default
  | .g3 => Config.g3Default
  | .g4 => Config.g4Default
  | .cutReset => Config.cutReset
  | .attackReset => Config.attackReset
  | .decayReset => Config.decayReset
  | .sustainReset => Config.sustainReset
  | .releaseReset => Config.releaseReset

end F

/-- The default number format: IEEE 754 binary32, round to nearest, ties to even (R8, R12). `DATA` is its bit
pattern. -/
def binary32 : Numerics F where
  ofData := F.mk
  toData := F.bits
  lit := F.ofLit
  itof := F.itof
  floor := F.floor
  abs := F.abs
  add := F.add
  sub := F.sub
  mul := F.mul
  div := F.div
  lt := F.lt
  le := F.le

namespace F

/-! ### The helpers of R15 and R16 in the default format -/

def clamp (x lo hi : F) : F := binary32.clamp x lo hi
def frac (x : F) : F := binary32.frac x
def wrap (x : F) : F := binary32.wrap x
def lerp (a b t : F) : F := binary32.lerp a b t

/-- `x` is not a NaN and `lo ≤ x ≤ hi`. -/
def within (lo hi x : F) : Bool := lo.le x && x.le hi

end F

end Sys2Proof
end

