-- ==== Sys2Proof/Machine/Operands.lean ====
section
/-! DEFINITION. Operand forms: how each `DATA` format of 30_encoding.md R111 is sliced, the numbers of the enumerations
(10_state.md R33, R42), and the conforming of an `F` operand to its register's domain (47_parameter_commands.md R290). -/

namespace Sys2Proof

namespace WaveformKind

/-- The number of a kind (R33). -/
def code : WaveformKind → BitVec 3
  | sine => 0#3
  | triangle => 1#3
  | sawtooth => 2#3
  | square => 3#3
  | pulse25 => 4#3
  | pwm => 5#3
  | superSaw => 6#3
  | noise => 7#3

/-- The kind of a number; every 3-bit number is one (R33). -/
def ofCode (b : BitVec 3) : WaveformKind :=
  if b = 0#3 then sine
  else if b = 1#3 then triangle
  else if b = 2#3 then sawtooth
  else if b = 3#3 then square
  else if b = 4#3 then pulse25
  else if b = 5#3 then pwm
  else if b = 6#3 then superSaw
  else noise

end WaveformKind

namespace Stage

/-- The number of an envelope stage (R42). -/
def code : Stage → BitVec 3
  | idle => 0#3
  | attack => 1#3
  | decay => 2#3
  | sustain => 3#3
  | release => 4#3

end Stage

namespace TimbreFamily

/-- The family the spec assigns to a table index (R171). -/
def ofTable (t : BitVec 3) : TimbreFamily :=
  if t = 0#3 then sineSawMorph
  else if t = 1#3 then formantLike
  else if t = 2#3 then pulseWidthSweep
  else if t = 3#3 then quantizationSweep
  else if t = 4#3 then additiveHarmonics
  else if t = 5#3 then fmModulated
  else if t = 6#3 then hardSync
  else noiseTexture

end TimbreFamily

namespace Operand

/-! Slices of `DATA` (R111, R113). -/

/-- Formats `N` and `O`: bits 6:0. -/
def note (data : Word) : BitVec 7 := data.extractLsb' 0 7
/-- Format `N`: bits 14:8. -/
def vel (data : Word) : BitVec 7 := data.extractLsb' 8 7
/-- Format `C`: the low `bits` bits, `bits` being `FRAMECOUNT_BITS` (R8); bits 15:0 by default. -/
def count (bits : Nat) (data : Word) : BitVec 32 := BitVec.ofNat 32 (data.toNat % 2 ^ bits)
/-- Format `K`: bits 2:0. -/
def low3 (data : Word) : BitVec 3 := data.extractLsb' 0 3
/-- Format `K` as a waveform kind. -/
def kind (data : Word) : WaveformKind := WaveformKind.ofCode (low3 data)
/-- Format `B`: bit 0. -/
def bit0 (data : Word) : Bool := data.getLsbD 0
/-- Format `F`: all 32 bits as a binary32. -/
def real (data : Word) : F := ⟨data⟩

end Operand

/-! The register address map (R88). -/

/-- The access column of R88 at address `a`. -/
def accessOf (a : BitVec 8) : Access :=
  if a.toNat ≤ 0x04 then .writeOnly
  else if a.toNat = 0x08 then .readWrite
  else if a.toNat = 0x09 then .readWrite
  else if a.toNat = 0x0A then .readClear
  else if a.toNat = 0x0B then .readOnly
  else if 0x10 ≤ a.toNat ∧ a.toNat ≤ 0x2A then .readWrite
  else if 0x40 ≤ a.toNat ∧ a.toNat ≤ 0x4F then .readOnly
  else .unmapped

/-- The address is one of the 52 mapped ones (R88). -/
def mapped (a : BitVec 8) : Bool := accessOf a != .unmapped

/-- The linear address of a wavetable entry (R82): table-major, sample-minor. -/
def romLinear (t f s : Nat) : Nat := (t * Config.nFrames + f) * Config.nSamples + s

end Sys2Proof
end

