-- ==== Sys2Proof/Syntax.lean ====
section
/-! DEFINITION. The commands of ESE18 as syntax: one constructor for each row of spec/opcode_table.json, its operands
already cut to the widths of 30_encoding.md R111 and R112, so that a constructor's argument cannot hold an ignored
bit; the one width that is a parameter, that of the frame count (00_scope.md R8), is checked by WellFormed. -/

namespace Sys2Proof

/-- A command (R114). -/
inductive Instr where
  /-- `NOP`, format Z (R322) -/
  | nop
  /-- `NOTE_ON`, format N (R266) -/
  | noteOn (note vel : BitVec 7)
  /-- `NOTE_OFF`, format O (R270) -/
  | noteOff (note : BitVec 7)
  /-- `PROCESS`, format C (R271); the count is as wide as `FRAMECOUNT_BITS` says (R8), 16 bits by default -/
  | process (count : BitVec 32)
  /-- `BIO_HRV`, format F (R275) -/
  | bioHrv (val : F)
  /-- `BIO_COH`, format F (R276) -/
  | bioCoh (val : F)
  /-- `SET_SAMPLE_RATE`, format F (R318) -/
  | setSampleRate (val : F)
  /-- `SET_CTRL`, format B (R319) -/
  | setCtrl (bit0 : Bool)
  /-- `CLR_STATUS`, format B (R320) -/
  | clrStatus (bit0 : Bool)
  /-- `SET_OSC1_WAVE`, format K (R291) -/
  | setOsc1Wave (kind : WaveformKind)
  /-- `SET_OSC2_WAVE`, format K (R292) -/
  | setOsc2Wave (kind : WaveformKind)
  /-- `SET_OSC1_DETUNE`, format F (R293) -/
  | setOsc1Detune (val : F)
  /-- `SET_OSC2_DETUNE`, format F (R294) -/
  | setOsc2Detune (val : F)
  /-- `SET_OSC1_PW`, format F (R295) -/
  | setOsc1Pw (val : F)
  /-- `SET_OSC2_PW`, format F (R296) -/
  | setOsc2Pw (val : F)
  /-- `SET_OSC_MIX`, format F (R297) -/
  | setOscMix (val : F)
  /-- `SET_WT_MIX`, format F (R298) -/
  | setWtMix (val : F)
  /-- `SET_WT_TABLE`, format K (R299) -/
  | setWtTable (idx : BitVec 3)
  /-- `SET_WT_POS`, format F (R300) -/
  | setWtPos (val : F)
  /-- `SET_FLT_CUTOFF`, format F (R301) -/
  | setFltCutoff (val : F)
  /-- `SET_FLT_RES`, format F (R302) -/
  | setFltRes (val : F)
  /-- `SET_FLT_ENV_AMT`, format F (R303) -/
  | setFltEnvAmt (val : F)
  /-- `SET_FLT_DRIVE`, format F (R304) -/
  | setFltDrive (val : F)
  /-- `SET_AMP_ATTACK`, format F (R305) -/
  | setAmpAttack (val : F)
  /-- `SET_AMP_DECAY`, format F (R306) -/
  | setAmpDecay (val : F)
  /-- `SET_AMP_SUSTAIN`, format F (R307) -/
  | setAmpSustain (val : F)
  /-- `SET_AMP_RELEASE`, format F (R308) -/
  | setAmpRelease (val : F)
  /-- `SET_FENV_ATTACK`, format F (R309) -/
  | setFenvAttack (val : F)
  /-- `SET_FENV_DECAY`, format F (R310) -/
  | setFenvDecay (val : F)
  /-- `SET_FENV_SUSTAIN`, format F (R311) -/
  | setFenvSustain (val : F)
  /-- `SET_FENV_RELEASE`, format F (R312) -/
  | setFenvRelease (val : F)
  /-- `SET_LFO_RATE`, format F (R313) -/
  | setLfoRate (val : F)
  /-- `SET_LFO_WAVE`, format K (R314) -/
  | setLfoWave (kind : WaveformKind)
  /-- `SET_LFO_TO_FILTER`, format F (R315) -/
  | setLfoToFilter (val : F)
  /-- `SET_LFO_TO_PITCH`, format F (R316) -/
  | setLfoToPitch (val : F)
  /-- `SET_MASTER_VOL`, format F (R317) -/
  | setMasterVol (val : F)
  /-- `RD`, format R (R321) -/
  | rd (addr : BitVec 8)
  deriving DecidableEq, Repr

end Sys2Proof
end

