-- ==== Sys2Proof/WellFormed.lean ====
section
/-! DEFINITION. The well-formed commands: those some accepted word decodes to. Three checks remain after the operand
widths of Syntax: an `F` operand is not a NaN (30_encoding.md R115 (f)), a read names a mapped address (R115 (e)), and a frame
count has `FRAMECOUNT_BITS` bits (00_scope.md R8). -/

namespace Sys2Proof

namespace Instr

/-- The command is one that decoding with a frame count of `bits` bits can give. -/
def wfIn (bits : Nat) : Instr → Bool
  | nop => true
  | noteOn _ _ => true
  | noteOff _ => true
  | process count => decide (count.toNat < 2 ^ bits)
  | bioHrv v => !v.isNaN
  | bioCoh v => !v.isNaN
  | setSampleRate v => !v.isNaN
  | setCtrl _ => true
  | clrStatus _ => true
  | setOsc1Wave _ => true
  | setOsc2Wave _ => true
  | setOsc1Detune v => !v.isNaN
  | setOsc2Detune v => !v.isNaN
  | setOsc1Pw v => !v.isNaN
  | setOsc2Pw v => !v.isNaN
  | setOscMix v => !v.isNaN
  | setWtMix v => !v.isNaN
  | setWtTable _ => true
  | setWtPos v => !v.isNaN
  | setFltCutoff v => !v.isNaN
  | setFltRes v => !v.isNaN
  | setFltEnvAmt v => !v.isNaN
  | setFltDrive v => !v.isNaN
  | setAmpAttack v => !v.isNaN
  | setAmpDecay v => !v.isNaN
  | setAmpSustain v => !v.isNaN
  | setAmpRelease v => !v.isNaN
  | setFenvAttack v => !v.isNaN
  | setFenvDecay v => !v.isNaN
  | setFenvSustain v => !v.isNaN
  | setFenvRelease v => !v.isNaN
  | setLfoRate v => !v.isNaN
  | setLfoWave _ => true
  | setLfoToFilter v => !v.isNaN
  | setLfoToPitch v => !v.isNaN
  | setMasterVol v => !v.isNaN
  | rd a => mapped a

/-- The command is one that decoding can give: a frame count has the default 16 bits (R112). -/
def wf (i : Instr) : Bool := i.wfIn Config.frameCountBitsDefault

end Instr

end Sys2Proof
end

