-- ==== Sys2Proof/Decode.lean ====
section
/-! DEFINITION. The command encoding (30_encoding.md): decoding, total on every 64-bit word and rejecting by cause, in
the order of R120; the encoder, which writes zero in every ignored and reserved bit (R118); the opcode table of R114
as data; and the little-endian byte form of R85. -/

namespace Sys2Proof

/-! ### Fields of a command word (R110) -/

def opcOf (w : CommandWord) : BitVec 8 := w.extractLsb' 56 8
def rsvOf (w : CommandWord) : BitVec 16 := w.extractLsb' 40 16
def addrOf (w : CommandWord) : BitVec 8 := w.extractLsb' 32 8
def dataOf (w : CommandWord) : Word := w.extractLsb' 0 32

/-! ### Decoding (R120) -/

/-- An `F`-format command, rejected when `DATA` is a NaN pattern (R115 (f)). -/
def realOperand (data : Word) (mk : F → Instr) : Except Reject Instr :=
  if (Operand.real data).isNaN then .error .nanOperand else .ok (mk (Operand.real data))

/-- Step (4) of R120: a write, looked up by its address in the table of R114; `bits` is `FRAMECOUNT_BITS`. -/
def decodeWrite (bits : Nat) (addr : BitVec 8) (data : Word) : Except Reject Instr :=
  match addr.toNat with
  | 0x00 => .ok (.noteOn (Operand.note data) (Operand.vel data))
  | 0x01 => .ok (.noteOff (Operand.note data))
  | 0x02 => .ok (.process (Operand.count bits data))
  | 0x03 => realOperand data .bioHrv
  | 0x04 => realOperand data .bioCoh
  | 0x08 => realOperand data .setSampleRate
  | 0x09 => .ok (.setCtrl (Operand.bit0 data))
  | 0x0A => .ok (.clrStatus (Operand.bit0 data))
  | 0x10 => .ok (.setOsc1Wave (Operand.kind data))
  | 0x11 => .ok (.setOsc2Wave (Operand.kind data))
  | 0x12 => realOperand data .setOsc1Detune
  | 0x13 => realOperand data .setOsc2Detune
  | 0x14 => realOperand data .setOsc1Pw
  | 0x15 => realOperand data .setOsc2Pw
  | 0x16 => realOperand data .setOscMix
  | 0x17 => realOperand data .setWtMix
  | 0x18 => .ok (.setWtTable (Operand.low3 data))
  | 0x19 => realOperand data .setWtPos
  | 0x1A => realOperand data .setFltCutoff
  | 0x1B => realOperand data .setFltRes
  | 0x1C => realOperand data .setFltEnvAmt
  | 0x1D => realOperand data .setFltDrive
  | 0x1E => realOperand data .setAmpAttack
  | 0x1F => realOperand data .setAmpDecay
  | 0x20 => realOperand data .setAmpSustain
  | 0x21 => realOperand data .setAmpRelease
  | 0x22 => realOperand data .setFenvAttack
  | 0x23 => realOperand data .setFenvDecay
  | 0x24 => realOperand data .setFenvSustain
  | 0x25 => realOperand data .setFenvRelease
  | 0x26 => realOperand data .setLfoRate
  | 0x27 => .ok (.setLfoWave (Operand.kind data))
  | 0x28 => realOperand data .setLfoToFilter
  | 0x29 => realOperand data .setLfoToPitch
  | 0x2A => realOperand data .setMasterVol
  | _ => .error .badWrite

/-- Steps (1) to (4) of R120, with a frame count of `bits` bits (`FRAMECOUNT_BITS`, R8). -/
def decodeIn (bits : Nat) (w : CommandWord) : Except Reject Instr :=
  if rsvOf w ≠ 0#16 then .error .reservedField
  else if 0x02 < (opcOf w).toNat then .error .reservedOpc
  else if opcOf w = 0x00#8 then
    (if w.extractLsb' 0 56 = 0#56 then .ok .nop else .error .nopPayload)
  else if opcOf w = 0x02#8 then
    (if mapped (addrOf w) then .ok (.rd (addrOf w)) else .error .badRead)
  else decodeWrite bits (addrOf w) (dataOf w)

/-- Decoding with the default frame count of 16 bits (R8, R112). -/
def decode (w : CommandWord) : Except Reject Instr := decodeIn Config.frameCountBitsDefault w

/-! ### Encoding (R110, R111) -/

/-- The word with the four fields given (R110). -/
def wordOf (opc : BitVec 8) (rsv : BitVec 16) (addr : BitVec 8) (data : Word) : CommandWord :=
  opc ++ rsv ++ addr ++ data

def writeWord (addr : BitVec 8) (data : Word) : CommandWord := wordOf 0x01#8 0#16 addr data

def dataN (note vel : BitVec 7) : Word := 0#17 ++ vel ++ 0#1 ++ note
def dataO (note : BitVec 7) : Word := 0#25 ++ note
def dataK (k : BitVec 3) : Word := 0#29 ++ k
def dataB (b : Bool) : Word := 0#31 ++ BitVec.ofBool b

/-- The word of a command, zero in every ignored and reserved bit (R118). -/
def encode (i : Instr) : CommandWord :=
  match i with
  | .nop => 0#64
  | .noteOn note vel => writeWord 0x00#8 (dataN note vel)
  | .noteOff note => writeWord 0x01#8 (dataO note)
  | .process count => writeWord 0x02#8 count
  | .bioHrv val => writeWord 0x03#8 val.bits
  | .bioCoh val => writeWord 0x04#8 val.bits
  | .setSampleRate val => writeWord 0x08#8 val.bits
  | .setCtrl bit0 => writeWord 0x09#8 (dataB bit0)
  | .clrStatus bit0 => writeWord 0x0A#8 (dataB bit0)
  | .setOsc1Wave kind => writeWord 0x10#8 (dataK kind.code)
  | .setOsc2Wave kind => writeWord 0x11#8 (dataK kind.code)
  | .setOsc1Detune val => writeWord 0x12#8 val.bits
  | .setOsc2Detune val => writeWord 0x13#8 val.bits
  | .setOsc1Pw val => writeWord 0x14#8 val.bits
  | .setOsc2Pw val => writeWord 0x15#8 val.bits
  | .setOscMix val => writeWord 0x16#8 val.bits
  | .setWtMix val => writeWord 0x17#8 val.bits
  | .setWtTable idx => writeWord 0x18#8 (dataK idx)
  | .setWtPos val => writeWord 0x19#8 val.bits
  | .setFltCutoff val => writeWord 0x1A#8 val.bits
  | .setFltRes val => writeWord 0x1B#8 val.bits
  | .setFltEnvAmt val => writeWord 0x1C#8 val.bits
  | .setFltDrive val => writeWord 0x1D#8 val.bits
  | .setAmpAttack val => writeWord 0x1E#8 val.bits
  | .setAmpDecay val => writeWord 0x1F#8 val.bits
  | .setAmpSustain val => writeWord 0x20#8 val.bits
  | .setAmpRelease val => writeWord 0x21#8 val.bits
  | .setFenvAttack val => writeWord 0x22#8 val.bits
  | .setFenvDecay val => writeWord 0x23#8 val.bits
  | .setFenvSustain val => writeWord 0x24#8 val.bits
  | .setFenvRelease val => writeWord 0x25#8 val.bits
  | .setLfoRate val => writeWord 0x26#8 val.bits
  | .setLfoWave kind => writeWord 0x27#8 (dataK kind.code)
  | .setLfoToFilter val => writeWord 0x28#8 val.bits
  | .setLfoToPitch val => writeWord 0x29#8 val.bits
  | .setMasterVol val => writeWord 0x2A#8 val.bits
  | .rd addr => wordOf 0x02#8 0#16 addr 0#32

/-! ### The opcode table as data (R114) -/

/-- A row of R114: a word selects the command when it equals `matchWord` under `mask`. -/
structure OpcodeRow where
  mnemonic : String
  format : Format
  matchWord : CommandWord
  mask : CommandWord
  deriving DecidableEq, Repr

/-- The row's selection condition (R114). -/
def OpcodeRow.selects (r : OpcodeRow) (w : CommandWord) : Bool := w &&& r.mask == r.matchWord

def opcodeRowsLow : List OpcodeRow := [
  ⟨"NOP", .Z, 0x0000000000000000#64, 0xFFFFFFFFFFFFFFFF#64⟩,
  ⟨"NOTE_ON", .N, 0x0100000000000000#64, 0xFFFFFFFF00000000#64⟩,
  ⟨"NOTE_OFF", .O, 0x0100000100000000#64, 0xFFFFFFFF00000000#64⟩,
  ⟨"PROCESS", .C, 0x0100000200000000#64, 0xFFFFFFFF00000000#64⟩,
  ⟨"BIO_HRV", .F, 0x0100000300000000#64, 0xFFFFFFFF00000000#64⟩,
  ⟨"BIO_COH", .F, 0x0100000400000000#64, 0xFFFFFFFF00000000#64⟩,
  ⟨"SET_SAMPLE_RATE", .F, 0x0100000800000000#64, 0xFFFFFFFF00000000#64⟩,
  ⟨"SET_CTRL", .B, 0x0100000900000000#64, 0xFFFFFFFF00000000#64⟩,
  ⟨"CLR_STATUS", .B, 0x0100000A00000000#64, 0xFFFFFFFF00000000#64⟩,
  ⟨"SET_OSC1_WAVE", .K, 0x0100001000000000#64, 0xFFFFFFFF00000000#64⟩,
  ⟨"SET_OSC2_WAVE", .K, 0x0100001100000000#64, 0xFFFFFFFF00000000#64⟩,
  ⟨"SET_OSC1_DETUNE", .F, 0x0100001200000000#64, 0xFFFFFFFF00000000#64⟩,
  ⟨"SET_OSC2_DETUNE", .F, 0x0100001300000000#64, 0xFFFFFFFF00000000#64⟩,
  ⟨"SET_OSC1_PW", .F, 0x0100001400000000#64, 0xFFFFFFFF00000000#64⟩,
  ⟨"SET_OSC2_PW", .F, 0x0100001500000000#64, 0xFFFFFFFF00000000#64⟩,
  ⟨"SET_OSC_MIX", .F, 0x0100001600000000#64, 0xFFFFFFFF00000000#64⟩,
  ⟨"SET_WT_MIX", .F, 0x0100001700000000#64, 0xFFFFFFFF00000000#64⟩,
  ⟨"SET_WT_TABLE", .K, 0x0100001800000000#64, 0xFFFFFFFF00000000#64⟩]

def opcodeRowsHigh : List OpcodeRow := [
  ⟨"SET_WT_POS", .F, 0x0100001900000000#64, 0xFFFFFFFF00000000#64⟩,
  ⟨"SET_FLT_CUTOFF", .F, 0x0100001A00000000#64, 0xFFFFFFFF00000000#64⟩,
  ⟨"SET_FLT_RES", .F, 0x0100001B00000000#64, 0xFFFFFFFF00000000#64⟩,
  ⟨"SET_FLT_ENV_AMT", .F, 0x0100001C00000000#64, 0xFFFFFFFF00000000#64⟩,
  ⟨"SET_FLT_DRIVE", .F, 0x0100001D00000000#64, 0xFFFFFFFF00000000#64⟩,
  ⟨"SET_AMP_ATTACK", .F, 0x0100001E00000000#64, 0xFFFFFFFF00000000#64⟩,
  ⟨"SET_AMP_DECAY", .F, 0x0100001F00000000#64, 0xFFFFFFFF00000000#64⟩,
  ⟨"SET_AMP_SUSTAIN", .F, 0x0100002000000000#64, 0xFFFFFFFF00000000#64⟩,
  ⟨"SET_AMP_RELEASE", .F, 0x0100002100000000#64, 0xFFFFFFFF00000000#64⟩,
  ⟨"SET_FENV_ATTACK", .F, 0x0100002200000000#64, 0xFFFFFFFF00000000#64⟩,
  ⟨"SET_FENV_DECAY", .F, 0x0100002300000000#64, 0xFFFFFFFF00000000#64⟩,
  ⟨"SET_FENV_SUSTAIN", .F, 0x0100002400000000#64, 0xFFFFFFFF00000000#64⟩,
  ⟨"SET_FENV_RELEASE", .F, 0x0100002500000000#64, 0xFFFFFFFF00000000#64⟩,
  ⟨"SET_LFO_RATE", .F, 0x0100002600000000#64, 0xFFFFFFFF00000000#64⟩,
  ⟨"SET_LFO_WAVE", .K, 0x0100002700000000#64, 0xFFFFFFFF00000000#64⟩,
  ⟨"SET_LFO_TO_FILTER", .F, 0x0100002800000000#64, 0xFFFFFFFF00000000#64⟩,
  ⟨"SET_LFO_TO_PITCH", .F, 0x0100002900000000#64, 0xFFFFFFFF00000000#64⟩,
  ⟨"SET_MASTER_VOL", .F, 0x0100002A00000000#64, 0xFFFFFFFF00000000#64⟩,
  ⟨"RD", .R, 0x0200000000000000#64, 0xFFFFFF0000000000#64⟩]

/-- The 37 rows. -/
def opcodeRows : List OpcodeRow := opcodeRowsLow ++ opcodeRowsHigh

/-- The mnemonic of a command (R110, R114). -/
def Instr.mnemonic : Instr → String
  | nop => "NOP"
  | noteOn _ _ => "NOTE_ON"
  | noteOff _ => "NOTE_OFF"
  | process _ => "PROCESS"
  | bioHrv _ => "BIO_HRV"
  | bioCoh _ => "BIO_COH"
  | setSampleRate _ => "SET_SAMPLE_RATE"
  | setCtrl _ => "SET_CTRL"
  | clrStatus _ => "CLR_STATUS"
  | setOsc1Wave _ => "SET_OSC1_WAVE"
  | setOsc2Wave _ => "SET_OSC2_WAVE"
  | setOsc1Detune _ => "SET_OSC1_DETUNE"
  | setOsc2Detune _ => "SET_OSC2_DETUNE"
  | setOsc1Pw _ => "SET_OSC1_PW"
  | setOsc2Pw _ => "SET_OSC2_PW"
  | setOscMix _ => "SET_OSC_MIX"
  | setWtMix _ => "SET_WT_MIX"
  | setWtTable _ => "SET_WT_TABLE"
  | setWtPos _ => "SET_WT_POS"
  | setFltCutoff _ => "SET_FLT_CUTOFF"
  | setFltRes _ => "SET_FLT_RES"
  | setFltEnvAmt _ => "SET_FLT_ENV_AMT"
  | setFltDrive _ => "SET_FLT_DRIVE"
  | setAmpAttack _ => "SET_AMP_ATTACK"
  | setAmpDecay _ => "SET_AMP_DECAY"
  | setAmpSustain _ => "SET_AMP_SUSTAIN"
  | setAmpRelease _ => "SET_AMP_RELEASE"
  | setFenvAttack _ => "SET_FENV_ATTACK"
  | setFenvDecay _ => "SET_FENV_DECAY"
  | setFenvSustain _ => "SET_FENV_SUSTAIN"
  | setFenvRelease _ => "SET_FENV_RELEASE"
  | setLfoRate _ => "SET_LFO_RATE"
  | setLfoWave _ => "SET_LFO_WAVE"
  | setLfoToFilter _ => "SET_LFO_TO_FILTER"
  | setLfoToPitch _ => "SET_LFO_TO_PITCH"
  | setMasterVol _ => "SET_MASTER_VOL"
  | rd _ => "RD"

/-! ### Words as bytes (R85) -/

/-- The eight bytes of a command word, bits 7:0 first. -/
def bytesOfWord (w : CommandWord) : List Byte :=
  [w.extractLsb' 0 8, w.extractLsb' 8 8, w.extractLsb' 16 8, w.extractLsb' 24 8,
   w.extractLsb' 32 8, w.extractLsb' 40 8, w.extractLsb' 48 8, w.extractLsb' 56 8]

/-- The command word at the head of a byte sequence and the bytes after it; none when fewer than eight remain. -/
def wordOfBytes : List Byte → Option (CommandWord × List Byte)
  | b0 :: b1 :: b2 :: b3 :: b4 :: b5 :: b6 :: b7 :: rest =>
    some (b7 ++ b6 ++ b5 ++ b4 ++ b3 ++ b2 ++ b1 ++ b0, rest)
  | _ => none

/-- Decoding at the head of a byte sequence. -/
def decodeBytes (bs : List Byte) : Option (Except Reject Instr × List Byte) :=
  match wordOfBytes bs with
  | some (w, rest) => some (decode w, rest)
  | none => none

/-- The four bytes of a register value, of a response word or of a binary32 value, bits 7:0 first. -/
def bytesOfValue (d : Word) : List Byte :=
  [d.extractLsb' 0 8, d.extractLsb' 8 8, d.extractLsb' 16 8, d.extractLsb' 24 8]

/-- The value at the head of a byte sequence and the bytes after it; none when fewer than four remain. -/
def valueOfBytes : List Byte → Option (Word × List Byte)
  | b0 :: b1 :: b2 :: b3 :: rest => some (b3 ++ b2 ++ b1 ++ b0, rest)
  | _ => none

/-- The bytes of the response stream, oldest word first (R47 (b)). -/
def bytesOfResponses (ds : List Word) : List Byte := ds.flatMap bytesOfValue

/-- The eight bytes of an audio frame: `L` precedes `R`. -/
def bytesOfFrame (fr : F × F) : List Byte := bytesOfValue fr.1.bits ++ bytesOfValue fr.2.bits

/-- The bytes of the audio frame stream, oldest frame first (R47 (a)). -/
def bytesOfFrames (frs : List (F × F)) : List Byte := frs.flatMap bytesOfFrame

/-! ### The host's table words -/

/-- The command word that a table row's `nbits`-bit number stands for: every bit from `nbits` on is zero. -/
def tableWord (nbits w : Nat) : CommandWord := BitVec.ofNat 64 (w % 2 ^ nbits)

/-- The command the decoder reads from a table word. The word is laid out as its eight bytes and read back. -/
def decodeTableWord (nbits w : Nat) : Option Instr :=
  match decodeBytes (bytesOfWord (tableWord nbits w)) with
  | some (.ok i, _) => some i
  | _ => none

end Sys2Proof
end

