-- ==== Sys2Proof/Machine/Hardware.lean ====
section
/-! DEFINITION. The configuration of the machine that `exec` and `step` run, `hw`: the defaults of 00_scope.md R8 and
the free values of Config brought under the limits the spec sets them (R18, R20, R172). A free value that already
meets its limits is taken unchanged; only one that does not is replaced, so `hw` covers every admissible
configuration of the free part. -/

namespace Sys2Proof

namespace Machine

/-- A free value used where the spec bounds it by -1 and 1 (R20, R172 (d)). -/
def bounded (b : BitVec 32) : F := if F.within F.minusOne F.one ⟨b⟩ then ⟨b⟩ else F.zero

/-- `fsin` with `SIN_BOUND` and `SIN_ZERO` (R18); for an infinity or a NaN nothing is said. -/
def conformSin (raw : BitVec 32 → BitVec 32) (x : F) : F :=
  if !x.isFinite then ⟨raw x.bits⟩
  else if x.mag = 0 then x
  else bounded (raw x.bits)

/-! ### A free function made monotone (`TANH_MONO`, `EXP2_MONO`, R18)

Arguments and results are numbered so that the order of the numbers is the order of the values. -/

/-- `v` brought into `[lo, hi]`. -/
def limit (lo hi v : Nat) : Nat := max lo (min hi v)

/-- The value at `x` of a monotone function made from `raw` on the `2 ^ n` numbers from `lo` on, its values in
`[vlo, vhi]`: `raw` at the middle bounds the values on each side of it. A `raw` that is monotone with values in
`[vlo, vhi]` is left as it is (Laws/Hardware.lean: `bisect_mono`, `bisect_eq`). -/
def bisect (raw : Nat → Nat) : (n lo vlo vhi x : Nat) → Nat
  | 0, lo, vlo, vhi, _ => limit vlo vhi (raw lo)
  | n + 1, lo, vlo, vhi, x =>
    if x < lo + 2 ^ n then bisect raw n lo vlo (limit vlo vhi (raw (lo + 2 ^ n))) x
    else bisect raw n (lo + 2 ^ n) (limit vlo vhi (raw (lo + 2 ^ n))) vhi x

/-- The number of a result that is not negative: bits 30:0. Of the negative patterns only -0.0 has one, that of 0.0. -/
def resultKey (b : BitVec 32) : Nat := if b = 0x80000000#32 then 0 else b.toNat

/-- The result of number `v`; a zero keeps the sign it has in the free value `b`. -/
def ofResultKey (b : BitVec 32) (v : Nat) : F := if v = 0 ∧ b = 0x80000000#32 then ⟨b⟩ else F.build false v

/-! ### The hyperbolic tangent -/

/-- 9.02, from which on the hyperbolic tangent is 1.0 (`TANH_SAT`, R18). -/
def tanhSat : F := ⟨0x411051EC#32⟩

/-- The number of the free result for a positive argument of bits 30:0 `m`, 1.0 from `tanhSat` on. -/
def tanhKey (raw : BitVec 32 → BitVec 32) (m : Nat) : Nat :=
  if tanhSat.bits.toNat ≤ m then F.one.bits.toNat else resultKey (raw (BitVec.ofNat 32 m))

/-- `ftanh` for a positive argument `x`: `TANH_SAT`, and otherwise the free value made monotone with values in [0, 1], as
`TANH_BOUND` with `TANH_ZERO` and `TANH_MONO` demand. -/
def tanhPos (raw : BitVec 32 → BitVec 32) (x : F) : F :=
  if tanhSat.le x then F.one
  else ofResultKey (raw x.bits) (bisect (tanhKey raw) 31 0 0 F.one.bits.toNat x.bits.toNat)

/-- `ftanh` with `TANH_BOUND`, `TANH_ZERO`, `TANH_ODD`, `TANH_MONO`, `TANH_SAT` (R18). -/
def conformTanh (raw : BitVec 32 → BitVec 32) (x : F) : F :=
  if x.isNaN then F.asNaN (raw x.bits)
  else if x.mag = 0 then x
  else if x.sign then (tanhPos raw x.abs).neg else tanhPos raw x

/-! ### Two to the power -/

/-- 2 to the power of an integer, exactly; for -126 ≤ n ≤ 127. -/
def pow2 (n : Int) : F := F.build false ((n + 127).toNat * 2 ^ 23)

/-- `ceil(x)`, a mathematical integer. -/
def ceil (x : F) : Int := -((-x.scaled) / (F.unit : Int))

/-- The number of the greatest value that `fexp2` must have, by `EXP2_INT`, at an argument not above `x`; at least 0
(`EXP2_POS`). -/
def exp2Low (x : F) : Nat :=
  if x.floor < -126 then 0 else if x.floor ≤ 127 then (pow2 x.floor).bits.toNat else (pow2 127).bits.toNat

/-- The number of the least value that `fexp2` must have, by `EXP2_INT`, at an argument not below `x`; infinity above 127. -/
def exp2High (x : F) : Nat :=
  if ceil x ≤ -126 then (pow2 (-126)).bits.toNat else if ceil x ≤ 127 then (pow2 (ceil x)).bits.toNat else F.infBits

/-- The number of an argument that is not a NaN, in the order of the values; the two zeros have the same. -/
def argKey (x : F) : Nat := if x.sign then 2 ^ 32 - x.bits.toNat else 2 ^ 31 + x.bits.toNat

/-- The argument of a number. -/
def ofArgKey (k : Nat) : F := if 2 ^ 31 ≤ k then ⟨BitVec.ofNat 32 (k - 2 ^ 31)⟩ else ⟨BitVec.ofNat 32 (2 ^ 32 - k)⟩

/-- The number of the free result at the argument of number `k`; below every finite argument 0, above +infinity
infinity. -/
def exp2Key (raw : BitVec 32 → BitVec 32) (k : Nat) : Nat :=
  if k ≤ 2 ^ 31 - F.infBits then 0
  else if 2 ^ 31 + F.infBits < k then F.infBits
  else resultKey (raw (ofArgKey k).bits)

/-- `fexp2` for an argument that is neither a NaN nor -infinity: the power itself where `EXP2_INT` gives it, and otherwise
the free value made monotone and kept between the neighbouring powers. -/
def exp2Ordered (raw : BitVec 32 → BitVec 32) (x : F) : F :=
  if exp2Low x = exp2High x then F.build false (exp2Low x)
  else ofResultKey (raw x.bits)
    (limit (exp2Low x) (exp2High x) (bisect (exp2Key raw) 32 0 0 F.infBits (argKey x)))

/-- `fexp2` with `EXP2_INT`, `EXP2_POS` and `EXP2_MONO` (R18). At -infinity it may be any value not above that at the
least finite argument; at a NaN nothing is said. -/
def conformExp2 (raw : BitVec 32 → BitVec 32) (x : F) : F :=
  if x.isNaN then ⟨raw x.bits⟩
  else if x = F.inf true then
    (if (F.mk (raw x.bits)).le (exp2Ordered raw ⟨0xFF7FFFFF#32⟩) then ⟨raw x.bits⟩
     else exp2Ordered raw ⟨0xFF7FFFFF#32⟩)
  else exp2Ordered raw x

/-! ### The machine's configuration -/

/-- The machine's configuration: the defaults of R8; the functions of R18, the wavetable contents and the noise
samples free under their named limits (logs 3, 5, 6, 13). -/
def hw : Config :=
  configWith binary32 (conformSin Config.rawSin) (conformTanh Config.rawTanh) (conformExp2 Config.rawExp2)
    (fun t f s => bounded (Config.rawRom t f s)) (fun k => bounded (Config.rawDraw k))

end Machine

end Sys2Proof
end

