-- ==== Sys2Proof/Machine/State.lean ====
section
/-! DEFINITION. The state of ESE18 as plain data (10_state.md R30): the 27 parameter registers (R31), the control and
status registers (R36), 16 voice records (R38 to R46), the two output histories (R47); beside them two fields of the
model's own, the command words presented and not yet executed (log 10) and the count of noise samples drawn (log 6).
Every record is over the type of the number format (00_scope.md R12);
`State.reset` is the state after reset (R62, R380) in the default configuration. -/

namespace Sys2Proof

namespace Machine

/-- OscillatorState (R39). -/
structure OscOf (α : Type) where
  phase : α
  kind : WaveformKind
  pw : α
  detune : α
  fs : α
  /-- transient (R45) -/
  freq : α
  deriving DecidableEq, Repr

/-- WavetableOscillatorState (R40). -/
structure WtOf (α : Type) where
  phase : α
  morph : α
  table : BitVec 3
  fs : α
  /-- transient (R45) -/
  freq : α
  deriving DecidableEq, Repr

/-- FilterState (R41): `s0` to `s3` are the four stage outputs. -/
structure FltOf (α : Type) where
  s0 : α
  s1 : α
  s2 : α
  s3 : α
  res : α
  drive : α
  fs : α
  /-- transient (R45) -/
  cutoff : α
  deriving DecidableEq, Repr

/-- EnvelopeState (R42), with the cached rates of R46. -/
structure EnvOf (α : Type) where
  stage : Stage
  level : α
  relStart : α
  attackMs : α
  decayMs : α
  sustain : α
  releaseMs : α
  fs : α
  aRate : α
  dRate : α
  rRate : α
  deriving DecidableEq, Repr

/-- LfoState (R43). -/
structure LfoOf (α : Type) where
  phase : α
  rate : α
  kind : WaveformKind
  fs : α
  deriving DecidableEq, Repr

/-- The voice record (R38), with the private parameter copies of R44. -/
structure VoiceOf (α : Type) where
  note : BitVec 7
  velRaw : BitVec 7
  vel : α
  baseFreq : α
  osc1 : OscOf α
  osc2 : OscOf α
  wt : WtOf α
  flt : FltOf α
  ampEnv : EnvOf α
  fltEnv : EnvOf α
  lfo : LfoOf α
  oscMix : α
  wtMix : α
  envAmt : α
  lfoToFlt : α
  lfoToPitch : α
  baseCutoff : α
  deriving DecidableEq, Repr

/-- The whole machine, over the number format's type `α` (R12). -/
structure State.Of (α : Type) where
  params : ParamsOf α
  /-- `SAMPLE_RATE` (0x08) -/
  sampleRate : α
  /-- `CTRL.LFO_RETRIG` (0x09 bit 0); the other bits read zero (R36) -/
  lfoRetrig : Bool
  /-- `STATUS.CMDERR` (0x0A bit 0); the other bits read zero (R36) -/
  cmdErr : Bool
  /-- `V[0..15]` (R38, R265) -/
  voices : Vector (VoiceOf α) 16
  /-- the audio frame stream, oldest first (R47 (a), R83) -/
  frames : List (α × α)
  /-- the read response stream, oldest first (R47 (b)) -/
  responses : List Word
  /-- MODEL's own: command words the host has presented, the next one first (R90, R393; log 10) -/
  port : List CommandWord
  /-- MODEL's own: noise samples drawn so far, selecting the next free value (R20, R48; log 6) -/
  draws : Nat
  deriving DecidableEq, Repr

/-! The same records over the default format. -/

abbrev Osc := OscOf F
abbrev Wt := WtOf F
abbrev Flt := FltOf F
abbrev Env := EnvOf F
abbrev Lfo := LfoOf F
abbrev Voice := VoiceOf F
/-- The state of the machine that `exec` and `step` run. -/
abbrev State := State.Of F

/-- Why a step can stop with a fault: never. ESE18 has no synchronous exception, no trap and no error return
(60_exceptions.md R350, R356), so this type has no constructor. -/
inductive Fault where
  deriving DecidableEq, Repr

/-- Why a step can be refused. -/
inductive Refusal where
  /-- Raised by an arm of `exec` whose instruction has no meaning yet; safe, since nothing is claimed of it. No arm
  raises it now: all 37 commands are modelled. -/
  | notModelled (mnemonic : String)
  deriving DecidableEq, Repr

/-! ### Reset (R62, R380), in any configuration -/

section
variable {α : Type} (c : ConfigOf α)

/-- An oscillator after reset (R39, R62). -/
def Osc.reset (kind : WaveformKind) (pw detune : α) : OscOf α where
  phase := c.num.lit .zero
  kind := kind
  pw := pw
  detune := detune
  fs := c.fsReset
  freq := c.num.lit .zero

/-- An envelope after reset (R42, R62): Idle at level zero, the cached rates those of its times (R211). -/
def Env.reset (a d s r : α) : EnvOf α where
  stage := .idle
  level := c.num.lit .zero
  relStart := c.num.lit .zero
  attackMs := a
  decayMs := d
  sustain := s
  releaseMs := r
  fs := c.fsReset
  aRate := envRate c.num a c.fsReset
  dRate := envRate c.num d c.fsReset
  rRate := envRate c.num r c.fsReset

/-- A filter after reset (R41, R62). -/
def Flt.reset (res drive : α) : FltOf α where
  s0 := c.num.lit .zero
  s1 := c.num.lit .zero
  s2 := c.num.lit .zero
  s3 := c.num.lit .zero
  res := res
  drive := drive
  fs := c.fsReset
  cutoff := c.resetCutoff

/-- A voice after reset (R62): inactive, every field zero, every parameter copy equal to its global register. -/
def Voice.reset (p : ParamsOf α) : VoiceOf α where
  note := 0#7
  velRaw := 0#7
  vel := c.num.lit .zero
  baseFreq := c.num.lit .zero
  osc1 := Osc.reset c p.osc1Wave p.osc1Pw p.osc1Detune
  osc2 := Osc.reset c p.osc2Wave p.osc2Pw p.osc2Detune
  wt := ⟨c.num.lit .zero, p.wtPos, p.wtTable, c.fsReset, c.num.lit .zero⟩
  flt := Flt.reset c p.fltRes p.fltDrive
  ampEnv := Env.reset c p.ampAttack p.ampDecay p.ampSustain p.ampRelease
  fltEnv := Env.reset c p.fenvAttack p.fenvDecay p.fenvSustain p.fenvRelease
  lfo := ⟨c.num.lit .zero, p.lfoRate, p.lfoWave, c.fsReset⟩
  oscMix := p.oscMix
  wtMix := p.wtMix
  envAmt := p.fltEnvAmt
  lfoToFlt := p.lfoToFilter
  lfoToPitch := p.lfoToPitch
  baseCutoff := p.fltCutoff

/-- The machine of configuration `c` right after reset (R62, R380), nothing presented on the port (R381). -/
def resetIn : State.Of α where
  params := c.resetParams
  sampleRate := c.fsReset
  lfoRetrig := c.resetLfoRetrig
  cmdErr := c.resetCmdErr
  voices := Vector.replicate 16 (Voice.reset c c.resetParams)
  frames := []
  responses := []
  port := []
  draws := 0

end

/-- The machine right after reset: `resetIn` of the default configuration. -/
def State.reset : State := resetIn hw

end Machine

end Sys2Proof
end

