-- ==== Sys2Proof/Machine/Envelope.lean ====
section
/-! DEFINITION. The ADSR envelope generator (43_envelope.md). -/

namespace Sys2Proof

namespace Machine

variable {α : Type}

/-- Recomputes the three cached rates (R211, R221). -/
def envRecompute (num : Numerics α) (e : EnvOf α) : EnvOf α :=
  { e with
    aRate := envRate num e.attackMs e.fs
    dRate := envRate num e.decayMs e.fs
    rRate := envRate num e.releaseMs e.fs }

/-- `EnvNoteOn` (R212). -/
def envNoteOn (num : Numerics α) (e : EnvOf α) : EnvOf α := { e with stage := .attack, level := num.lit .zero }

/-- `EnvNoteOff` (R213). -/
def envNoteOff (e : EnvOf α) : EnvOf α :=
  if e.stage = .idle then e else { e with relStart := e.level, stage := .release }

/-- Attack arm (R215). -/
def envAttack (num : Numerics α) (e : EnvOf α) : EnvOf α :=
  let l := num.add e.level e.aRate
  if num.le (num.lit .one) l then { e with level := num.lit .one, stage := .decay } else { e with level := l }

/-- Decay arm (R216). -/
def envDecay (num : Numerics α) (e : EnvOf α) : EnvOf α :=
  let l := num.sub e.level e.dRate
  if num.le l e.sustain then { e with level := e.sustain, stage := .sustain } else { e with level := l }

/-- Sustain arm (R217). -/
def envSustain (e : EnvOf α) : EnvOf α := { e with level := e.sustain }

/-- Release arm (R218). -/
def envRelease (num : Numerics α) (e : EnvOf α) : EnvOf α :=
  let l := num.sub e.level (num.mul e.rRate e.relStart)
  if num.le l (num.lit .zero) then { e with level := num.lit .zero, stage := .idle } else { e with level := l }

/-- The arm of the stage on entry (R214 to R219). -/
def envNext (num : Numerics α) (e : EnvOf α) : EnvOf α :=
  match e.stage with
  | .idle => e
  | .attack => envAttack num e
  | .decay => envDecay num e
  | .sustain => envSustain e
  | .release => envRelease num e

/-- `EnvProcess` (R214): the level after this sample's update, and the envelope. -/
def envProcess (num : Numerics α) (e : EnvOf α) : α × EnvOf α := ((envNext num e).level, envNext num e)

/-- `EnvIsActive` (R220). -/
def envIsActive (e : EnvOf α) : Bool := decide (e.stage ≠ .idle)

/-- The clamp of a time in milliseconds (R221). -/
def clampTime (c : ConfigOf α) (ms : α) : α := c.num.clamp ms c.tMin c.tMax

/-- `EnvSetAttack` (R221). -/
def envSetAttack (c : ConfigOf α) (e : EnvOf α) (ms : α) : EnvOf α :=
  envRecompute c.num { e with attackMs := clampTime c ms }

/-- `EnvSetDecay` (R221). -/
def envSetDecay (c : ConfigOf α) (e : EnvOf α) (ms : α) : EnvOf α :=
  envRecompute c.num { e with decayMs := clampTime c ms }

/-- `EnvSetRelease` (R221). -/
def envSetRelease (c : ConfigOf α) (e : EnvOf α) (ms : α) : EnvOf α :=
  envRecompute c.num { e with releaseMs := clampTime c ms }

/-- `EnvSetSustain` (R221). -/
def envSetSustain (num : Numerics α) (e : EnvOf α) (x : α) : EnvOf α := { e with sustain := num.clampUnit x }

/-- `EnvSetSampleRate` (R221). -/
def envSetSampleRate (num : Numerics α) (e : EnvOf α) (fs : α) : EnvOf α := envRecompute num { e with fs := fs }

end Machine

end Sys2Proof
end

