-- ==== Sys2Proof/Machine/Filter.lean ====
section
/-! DEFINITION. The 4-stage nonlinear resonant filter (42_filter.md). -/

namespace Sys2Proof

namespace Machine

variable {α : Type}

/-- `FltSetSampleRate` (R190). -/
def fltSetSampleRate (f : FltOf α) (fs : α) : FltOf α := { f with fs := fs }

/-- `FltSetCutoff` (R191). -/
def fltSetCutoff (num : Numerics α) (f : FltOf α) (x : α) : FltOf α :=
  { f with cutoff := num.clamp x (num.lit .cutMin) (num.lit .cutMax) }

/-- `FltSetResonance` (R192). -/
def fltSetResonance (num : Numerics α) (f : FltOf α) (r : α) : FltOf α := { f with res := num.clampUnit r }

/-- `FltSetDrive` (R193). -/
def fltSetDrive (c : ConfigOf α) (f : FltOf α) (d : α) : FltOf α :=
  { f with drive := c.num.clamp d (c.num.lit .zero) c.driveMax }

/-- The normalized cutoff, clamped to `FC_MAX` (R194). -/
def normCutoff (c : ConfigOf α) (f : FltOf α) : α :=
  let fc := c.num.div f.cutoff f.fs
  if c.num.lt c.fcMax fc then c.fcMax else fc

/-- The coefficient `g` (R194). -/
def fltG (c : ConfigOf α) (f : FltOf α) : α := c.gCoef (normCutoff c f)

/-- The drive, `u0` (R196). -/
def fltDriven (c : ConfigOf α) (f : FltOf α) (x : α) : α :=
  c.ftanh (c.num.mul x (c.num.add (c.num.lit .one) (c.num.mul (c.num.lit .driveGain) f.drive)))

/-- The input node `u` (R195, R197): the feedback is the fourth stage's value from the previous sample. -/
def fltNode (c : ConfigOf α) (f : FltOf α) (x : α) : α :=
  c.num.sub (fltDriven c f x) (c.num.mul (c.num.mul (c.num.lit .resScale) f.res) f.s3)

/-- One stage: `s + g · (ftanh(in) − ftanh(s))` (R198). -/
def fltStage (c : ConfigOf α) (g input s : α) : α :=
  c.num.add s (c.num.mul g (c.num.sub (c.ftanh input) (c.ftanh s)))

/-- `FltProcess` (R199): the output is the fourth stage. Each stage sees its predecessor's new value (R198). -/
def fltProcess (c : ConfigOf α) (f : FltOf α) (x : α) : α × FltOf α :=
  let g := fltG c f
  let s0 := fltStage c g (fltNode c f x) f.s0
  let s1 := fltStage c g s0 f.s1
  let s2 := fltStage c g s1 f.s2
  let s3 := fltStage c g s2 f.s3
  (s3, { f with s0 := s0, s1 := s1, s2 := s2, s3 := s3 })

end Machine

end Sys2Proof
end

