-- ==== Sys2Proof/Machine/Oscillator.lean ====
section
/-! DEFINITION. The band-limited oscillator (40_oscillator.md). No operation writes a flag and none can fail (R140). -/

namespace Sys2Proof

namespace Machine

variable {α : Type}

/-! ### Operations other than process -/

/-- `OscSetSampleRate` (R141). -/
def oscSetSampleRate (o : OscOf α) (fs : α) : OscOf α := { o with fs := fs }

/-- The frequency clamp shared by the oscillators (R142, R174): `[0, fs / 2]`. -/
def clampFreq (num : Numerics α) (fs f : α) : α := num.clamp f (num.lit .zero) (num.mul fs (num.lit .half))

/-- `OscSetFrequency` (R142). -/
def oscSetFrequency (num : Numerics α) (o : OscOf α) (f : α) : OscOf α := { o with freq := clampFreq num o.fs f }

/-- `OscSetWaveform` (R143). -/
def oscSetWaveform (o : OscOf α) (k : WaveformKind) : OscOf α := { o with kind := k }

/-- `OscSetPulseWidth` (R144). -/
def oscSetPulseWidth (num : Numerics α) (o : OscOf α) (w : α) : OscOf α :=
  { o with pw := num.clamp w (num.lit .pwMin) (num.lit .pwMax) }

/-- `OscSetDetune` (R145). -/
def oscSetDetune (num : Numerics α) (o : OscOf α) (d : α) : OscOf α := { o with detune := num.clampUnit d }

/-- `OscReset` (R146). -/
def oscReset (num : Numerics α) (o : OscOf α) : OscOf α := { o with phase := num.lit .zero }

/-! ### The shapes -/

/-- `Blep(t, dt)` (R148). -/
def blep (num : Numerics α) (t dt : α) : α :=
  if num.lt t dt then
    let x := num.div t dt
    num.sub (num.sub (num.add x x) (num.mul x x)) (num.lit .one)
  else if num.lt (num.sub (num.lit .one) dt) t then
    let x := num.div (num.sub t (num.lit .one)) dt
    num.add (num.add (num.mul x x) (num.add x x)) (num.lit .one)
  else num.lit .zero

/-- The rising ramp `2p - 1` (R151, R235). -/
def ramp (num : Numerics α) (p : α) : α := num.sub (num.mul (num.lit .two) p) (num.lit .one)

/-- `4 · |p − 0.5| − 1` (R150). -/
def triangle (num : Numerics α) (p : α) : α :=
  num.sub (num.mul (num.lit .four) (num.abs (num.sub p (num.lit .half)))) (num.lit .one)

/-- `fsin(TWO_PI · p)` (R149). -/
def sine (c : ConfigOf α) (p : α) : α := c.fsin (c.num.mul (c.num.lit .twoPi) p)

/-- The level of a pulse of width `w`: high first (R152, R235). -/
def pulseLevel (num : Numerics α) (p w : α) : α := if num.lt p w then num.lit .one else num.lit .minusOne

/-- `Saw(p, dt)` (R151). -/
def saw (num : Numerics α) (p dt : α) : α := num.sub (ramp num p) (blep num p dt)

/-- `Pulse(p, dt, w)` (R152), left to right. -/
def pulse (num : Numerics α) (p dt w : α) : α :=
  num.sub (num.add (pulseLevel num p w) (blep num p dt))
    (blep num (num.wrap (num.add p (num.sub (num.lit .one) w))) dt)

/-- The seven phase offsets, in order (R155). -/
def superSawOffsets : List Int := [-3, -2, -1, 0, 1, 2, 3]

/-- One of the seven sawtooths of SuperSaw: that of offset `k`, divided by 7 (R155). -/
def superSawTerm (c : ConfigOf α) (p dt detune : α) (k : Int) : α :=
  c.num.div
    (saw c.num (c.num.frac (c.num.add p (c.num.mul (c.num.itof k) (c.num.mul detune c.ssUnit)))) dt)
    (c.num.lit .seven)

/-- Kind SuperSaw (R155). -/
def superSaw (c : ConfigOf α) (p dt detune : α) : α :=
  superSawOffsets.foldl (fun acc k => c.num.add acc (superSawTerm c p dt detune k)) (c.num.lit .zero)

/-- `Shape(kind, p, dt, pw, detune)` (R149 to R156); Noise is the `n`-th draw (R156). -/
def shape (c : ConfigOf α) (n : Nat) (kind : WaveformKind) (p dt pw detune : α) : α :=
  match kind with
  | .sine => sine c p
  | .triangle => triangle c.num p
  | .sawtooth => saw c.num p dt
  | .square => pulse c.num p dt (c.num.lit .half)
  | .pulse25 => pulse c.num p dt (c.num.lit .quarter)
  | .pwm => pulse c.num p dt pw
  | .superSaw => superSaw c p dt detune
  | .noise => c.draw n

/-- How many draws one sample of a kind takes: one for Noise, else none (R156, R235). -/
def drawsOf (kind : WaveformKind) : Nat :=
  match kind with
  | .noise => 1
  | .sine => 0
  | .triangle => 0
  | .sawtooth => 0
  | .square => 0
  | .pulse25 => 0
  | .pwm => 0
  | .superSaw => 0

/-! ### process -/

/-- `Advance(p, dt)` (R157). -/
def advance (num : Numerics α) (p dt : α) : α := num.wrap (num.add p dt)

/-- `OscProcess` (R147) with the draw count before it: the sample, the oscillator and the draw count after it. The
sample is the shape at the phase before the increment. -/
def oscProcess (c : ConfigOf α) (n : Nat) (o : OscOf α) : α × OscOf α × Nat :=
  let dt := c.num.div o.freq o.fs
  (shape c n o.kind o.phase dt o.pw o.detune, { o with phase := advance c.num o.phase dt }, n + drawsOf o.kind)

end Machine

end Sys2Proof
end

