-- ==== Sys2Proof/Machine/Lfo.lean ====
section
/-! DEFINITION. The low-frequency oscillator (44_lfo.md). -/

namespace Sys2Proof

namespace Machine

variable {α : Type}

/-- `LfoSetRate` (R231). -/
def lfoSetRate (num : Numerics α) (l : LfoOf α) (r : α) : LfoOf α :=
  { l with rate := num.clamp r (num.lit .lfoMin) (num.lit .lfoMax) }

/-- `LfoSetWaveform` (R232). -/
def lfoSetWaveform (l : LfoOf α) (k : WaveformKind) : LfoOf α := { l with kind := k }

/-- `LfoSetSampleRate` (R232). -/
def lfoSetSampleRate (l : LfoOf α) (fs : α) : LfoOf α := { l with fs := fs }

/-- `LfoSync` (R233). -/
def lfoSync (num : Numerics α) (l : LfoOf α) : LfoOf α := { l with phase := num.lit .zero }

/-- `NaiveShape(kind, p)` (R235); Noise is the `n`-th draw. -/
def naiveShape (c : ConfigOf α) (n : Nat) (kind : WaveformKind) (p : α) : α :=
  match kind with
  | .sine => sine c p
  | .triangle => triangle c.num p
  | .sawtooth => ramp c.num p
  | .square => pulseLevel c.num p (c.num.lit .half)
  | .pulse25 => pulseLevel c.num p (c.num.lit .quarter)
  | .pwm => pulseLevel c.num p (c.num.lit .half)
  | .superSaw => ramp c.num p
  | .noise => c.draw n

/-- `LfoProcess` (R234) with the draw count before it: the sample, the LFO and the draw count after it. -/
def lfoProcess (c : ConfigOf α) (n : Nat) (l : LfoOf α) : α × LfoOf α × Nat :=
  (naiveShape c n l.kind l.phase, { l with phase := advance c.num l.phase (c.num.div l.rate l.fs) },
    n + drawsOf l.kind)

end Machine

end Sys2Proof
end

