-- ==== Sys2Proof/Machine/Wavetable.lean ====
section
/-! DEFINITION. The wavetable oscillator (41_wavetable.md). The bank is the configuration constant `wtRom` (R172). -/

namespace Sys2Proof

namespace Machine

variable {α : Type}

/-- `WtSetSampleRate` (R174). -/
def wtSetSampleRate (w : WtOf α) (fs : α) : WtOf α := { w with fs := fs }

/-- `WtSetFrequency` (R174). -/
def wtSetFrequency (num : Numerics α) (w : WtOf α) (f : α) : WtOf α := { w with freq := clampFreq num w.fs f }

/-- `WtSetTable` (R174). -/
def wtSetTable (w : WtOf α) (t : BitVec 3) : WtOf α := { w with table := t }

/-- `WtSetPosition` (R174). -/
def wtSetPosition (num : Numerics α) (w : WtOf α) (x : α) : WtOf α := { w with morph := num.clampUnit x }

/-- `WtReset` (R174). -/
def wtReset (num : Numerics α) (w : WtOf α) : WtOf α := { w with phase := num.lit .zero }

/-- The position on the sample axis: `i0` and `fr` of `pos` (R175, R176). The same split serves the frame axis
with `f0` and `ff` of `fp` (R177). -/
def splitPos (num : Numerics α) (pos : α) : Nat × α :=
  ((num.floor pos).toNat, num.sub pos (num.itof (num.floor pos)))

/-- The neighbour on the sample axis, which wraps (R176). -/
def nextSample (i : Nat) : Nat := (i + 1) % Config.nSamples

/-- The neighbour on the frame axis, which saturates (R177). -/
def nextFrame (f : Nat) : Nat := min (f + 1) (Config.nFrames - 1)

/-- The interpolated read of table `t` at phase `p` and morph position `m` (R175, R178). -/
def wtRead (c : ConfigOf α) (t : BitVec 3) (m p : α) : α :=
  let s := splitPos c.num (c.num.mul p (c.num.lit .c2048))
  let f := splitPos c.num (c.num.mul m (c.num.lit .c255))
  let rom := c.wtRom t.toNat
  let a := c.num.lerp (rom f.1 s.1) (rom f.1 (nextSample s.1)) s.2
  let b := c.num.lerp (rom (nextFrame f.1) s.1) (rom (nextFrame f.1) (nextSample s.1)) s.2
  c.num.lerp a b f.2

/-- `WtProcess` (R175): the sample at the phase before the increment, and the oscillator after it. -/
def wtProcess (c : ConfigOf α) (w : WtOf α) : α × WtOf α :=
  (wtRead c w.table w.morph w.phase, { w with phase := advance c.num w.phase (c.num.div w.freq w.fs) })

end Machine

end Sys2Proof
end

