-- ==== Sys2Proof/Machine/Voice.lean ====
section
/-! DEFINITION. The voice (45_voice.md): two oscillators, one wavetable oscillator, one filter, two envelopes, one LFO and the routing
between them. A voice reads its own parameter copies (10_state.md R44; log 12). -/

namespace Sys2Proof

namespace Machine

variable {α : Type}

/-- `VoiceIsActive` (R256): the amplitude envelope is not Idle (R37). -/
def voiceIsActive (v : VoiceOf α) : Bool := envIsActive v.ampEnv

/-- The base frequency of a note (R247). -/
def noteFreq (c : ConfigOf α) (note : BitVec 7) : α :=
  c.num.mul (c.num.lit .a4Hz)
    (c.fexp2 (c.num.div (c.num.itof ((note.toNat : Int) - Config.a4Note)) (c.num.lit .twelve)))

/-- The normalized velocity (R248). -/
def noteVel (c : ConfigOf α) (vel : BitVec 7) : α := c.num.div (c.num.itof (vel.toNat : Int)) c.velMax

/-- `VoiceNoteOn` (R246, R249); `retrig` is `CTRL.LFO_RETRIG`. -/
def voiceNoteOn (c : ConfigOf α) (retrig : Bool) (note vel : BitVec 7) (v : VoiceOf α) : VoiceOf α :=
  { v with
    note := note
    velRaw := vel
    vel := noteVel c vel
    baseFreq := noteFreq c note
    osc1 := oscReset c.num v.osc1
    osc2 := oscReset c.num v.osc2
    wt := wtReset c.num v.wt
    lfo := if retrig then lfoSync c.num v.lfo else v.lfo
    ampEnv := envNoteOn c.num v.ampEnv
    fltEnv := envNoteOn c.num v.fltEnv }

/-- `VoiceNoteOff` (R250). -/
def voiceNoteOff (v : VoiceOf α) : VoiceOf α :=
  { v with ampEnv := envNoteOff v.ampEnv, fltEnv := envNoteOff v.fltEnv }

/-- The pitch multiplier `m` (R252). -/
def pitchMod (num : Numerics α) (v : VoiceOf α) (l : α) : α :=
  num.add (num.lit .one) (num.mul (num.mul l v.lfoToPitch) (num.lit .pitchDepth))

/-- A linear cross-fade: amount 0 gives `a`, amount 1 gives `b` (R253). -/
def crossFade (num : Numerics α) (a b x : α) : α :=
  num.add (num.mul a (num.sub (num.lit .one) x)) (num.mul b x)

/-- The modulated cutoff before the filter's clamp (R254). -/
def modCutoff (num : Numerics α) (v : VoiceOf α) (l fe : α) : α :=
  num.mul v.baseCutoff (num.add (num.lit .one)
    (num.mul (num.add (num.mul fe v.envAmt) (num.mul (num.mul l v.lfoToFlt) (num.lit .lfoFltDepth)))
      (num.lit .cutModScale)))

/-- `VoiceProcess` (R251) with the draw count before it: the sample, the voice and the draw count after it.
Draws are taken in the order LFO, `osc1`, `osc2`. -/
def voiceProcess (c : ConfigOf α) (n : Nat) (v : VoiceOf α) : α × VoiceOf α × Nat :=
  let l := lfoProcess c n v.lfo
  let f := c.num.mul v.baseFreq (pitchMod c.num v l.1)
  let o1 := oscProcess c l.2.2 (oscSetFrequency c.num v.osc1 f)
  let o2 := oscProcess c o1.2.2 (oscSetFrequency c.num v.osc2 f)
  let w := wtProcess c (wtSetFrequency c.num v.wt f)
  let sig := crossFade c.num (crossFade c.num o1.1 o2.1 v.oscMix) w.1 v.wtMix
  let fe := envProcess c.num v.fltEnv
  let y := fltProcess c (fltSetCutoff c.num v.flt (modCutoff c.num v l.1 fe.1)) sig
  let ae := envProcess c.num v.ampEnv
  (c.num.mul y.1 (c.num.mul ae.1 v.vel),
    { v with lfo := l.2.1, osc1 := o1.2.1, osc2 := o2.2.1, wt := w.2, fltEnv := fe.2, flt := y.2, ampEnv := ae.2 },
    o2.2.2)

end Machine

end Sys2Proof
end

