-- ==== Sys2Proof/Machine/Flags.lean ====
section
/-! DEFINITION. Flags and derived registers: the predicate `Active` (10_state.md R37) and the words that `CTRL`, `STATUS`, `ACTIVE`
and `VOICE_STAT` read as (R36, 47_parameter_commands.md R323). ESE18 has no arithmetic condition codes; its one stored
flag is `STATUS.CMDERR`. -/

namespace Sys2Proof

namespace Machine

variable {α : Type}

/-- `Active(v)` (R37). -/
def active (s : State.Of α) (i : Fin 16) : Bool := voiceIsActive s.voices[i]

/-- The word `CTRL` reads as: bit 0 `LFO_RETRIG`, the rest zero (R36). -/
def ctrlWord (s : State.Of α) : Word := 0#31 ++ BitVec.ofBool s.lfoRetrig

/-- The word `STATUS` reads as: bit 0 `CMDERR`, the rest zero (R36). -/
def statusWord (s : State.Of α) : Word := 0#31 ++ BitVec.ofBool s.cmdErr

/-- The word `ACTIVE` reads as: bit `v` is `Active(v)`, bits 31:16 zero (R36, R37). -/
def activeWord (s : State.Of α) : Word := 0#16 ++ BitVec.ofFnLE (fun i : Fin 16 => active s i)

/-- The word `VOICE_STAT[v]` reads as (R36): `FSTAGE` 22:20, `ASTAGE` 18:16, `VEL` 14:8, `NOTE` 6:0, the rest zero. -/
def voiceStatWord (v : VoiceOf α) : Word :=
  0#9 ++ v.fltEnv.stage.code ++ 0#1 ++ v.ampEnv.stage.code ++ 0#1 ++ v.velRaw ++ 0#1 ++ v.note

end Machine

end Sys2Proof
end

