-- ==== Sys2Proof/Machine/Ops.lean ====
section
/-! DEFINITION. The shared operations over the state: the voices, the two streams, the rejection of a command (the one error
indication ESE18 has, 60_exceptions.md R352; it takes the place of exception entry, of which there is none, R356), the
common shape of a setter (47_parameter_commands.md R290), the broadcast of R269 and the register read of R323. -/

namespace Sys2Proof

namespace Machine

/-- What a meaning answers. -/
abbrev Result := Host.Outcome State Fault Refusal

variable {α : Type}

/-! ### Voices -/

/-- Voices 0 to 15 in ascending order (R270, R272). -/
def voiceIndices : List (Fin 16) := [0, 1, 2, 3, 4, 5, 6, 7, 8, 9, 10, 11, 12, 13, 14, 15]

/-- The voices, each changed by `f`. -/
def mapVoices (f : VoiceOf α → VoiceOf α) (vs : Vector (VoiceOf α) 16) : Vector (VoiceOf α) 16 :=
  ⟨⟨vs.toList.map f⟩, by simp⟩

/-- The voices with voice `i` changed by `f`. -/
def updateVoice (i : Fin 16) (f : VoiceOf α → VoiceOf α) (vs : Vector (VoiceOf α) 16) : Vector (VoiceOf α) 16 :=
  vs.set i (f vs[i])

/-! ### Streams (R47) -/

/-- `Emit(l, r)` (R83). -/
def emit (l r : α) (s : State.Of α) : State.Of α := { s with frames := s.frames ++ [(l, r)] }

/-- `Respond(d)` (R11, R321). -/
def respond (d : Word) (s : State.Of α) : State.Of α := { s with responses := s.responses ++ [d] }

/-! ### Rejection -/

/-- A rejected command: `STATUS.CMDERR` is set, a rejected read appends a zero word, and nothing else changes
(R115, R352). -/
def reject (r : Reject) (s : State.Of α) : State.Of α :=
  match r with
  | .badRead => respond 0#32 { s with cmdErr := true }
  | .reservedOpc => { s with cmdErr := true }
  | .reservedField => { s with cmdErr := true }
  | .nopPayload => { s with cmdErr := true }
  | .badWrite => { s with cmdErr := true }
  | .nanOperand => { s with cmdErr := true }

/-! ### Setters (R290) -/

/-- Steps (2) and (3) of R290: the register receives `x`, and so does every voice through the component's setter. -/
def setParam {β : Type} (x : β) (store : ParamsOf α → β → ParamsOf α) (apply : VoiceOf α → β → VoiceOf α)
    (s : State.Of α) : State.Of α :=
  { s with params := store s.params x, voices := mapVoices (fun v => apply v x) s.voices }

/-- An `F`-format command over the operand `val`: rejected when it is a NaN (R115 (f)), else `act` of what `conform`
makes of its value. -/
def withReal (num : Numerics α) (val : F) (conform : α → α) (act : α → State.Of α → State.Of α) (s : State.Of α) :
    State.Of α :=
  if val.isNaN then reject .nanOperand s else act (conform (num.ofData val.bits)) s

/-- An `F`-format setter with the domain `[lo, hi]` (R290). -/
def setReal (num : Numerics α) (val : F) (lo hi : α) (store : ParamsOf α → α → ParamsOf α)
    (apply : VoiceOf α → α → VoiceOf α) (s : State.Of α) : State.Of α :=
  withReal num val (fun x => num.clamp x lo hi) (fun x => setParam x store apply) s

/-- An `F`-format setter with the domain [0, 1] (R290). -/
def setUnit (num : Numerics α) (val : F) (store : ParamsOf α → α → ParamsOf α)
    (apply : VoiceOf α → α → VoiceOf α) (s : State.Of α) : State.Of α :=
  setReal num val (num.lit .zero) (num.lit .one) store apply s

/-! ### Broadcast (R269) -/

/-- The global parameters of an oscillator, given through its setters. -/
def broadcastOsc (num : Numerics α) (o : OscOf α) (kind : WaveformKind) (pw detune fs : α) : OscOf α :=
  oscSetSampleRate (oscSetDetune num (oscSetPulseWidth num (oscSetWaveform o kind) pw) detune) fs

/-- The global parameters of an envelope, given through its setters. -/
def broadcastEnv (c : ConfigOf α) (e : EnvOf α) (a d x r fs : α) : EnvOf α :=
  envSetSampleRate c.num (envSetRelease c (envSetSustain c.num (envSetDecay c (envSetAttack c e a) d) x) r) fs

/-- `Broadcast` (R269): every global parameter and `SAMPLE_RATE` copied into a voice through the component setters. -/
def broadcast (c : ConfigOf α) (p : ParamsOf α) (fs : α) (v : VoiceOf α) : VoiceOf α :=
  { v with
    osc1 := broadcastOsc c.num v.osc1 p.osc1Wave p.osc1Pw p.osc1Detune fs
    osc2 := broadcastOsc c.num v.osc2 p.osc2Wave p.osc2Pw p.osc2Detune fs
    wt := wtSetSampleRate (wtSetPosition c.num (wtSetTable v.wt p.wtTable) p.wtPos) fs
    flt := fltSetSampleRate (fltSetDrive c (fltSetResonance c.num v.flt p.fltRes) p.fltDrive) fs
    ampEnv := broadcastEnv c v.ampEnv p.ampAttack p.ampDecay p.ampSustain p.ampRelease fs
    fltEnv := broadcastEnv c v.fltEnv p.fenvAttack p.fenvDecay p.fenvSustain p.fenvRelease fs
    lfo := lfoSetSampleRate (lfoSetWaveform (lfoSetRate c.num v.lfo p.lfoRate) p.lfoWave) fs
    oscMix := p.oscMix
    wtMix := p.wtMix
    envAmt := p.fltEnvAmt
    lfoToFlt := p.lfoToFilter
    lfoToPitch := p.lfoToPitch
    baseCutoff := p.fltCutoff }

/-! ### Register read (R323) -/

/-- A `K`-format register: the number in bits 2:0, the rest zero. -/
def kWord (b : BitVec 3) : Word := 0#29 ++ b

/-- A parameter register by its address, 0x10 to 0x2A (R31); zero at any other number. -/
def paramRead (num : Numerics α) (p : ParamsOf α) (a : Nat) : Word :=
  match a with
  | 0x10 => kWord p.osc1Wave.code
  | 0x11 => kWord p.osc2Wave.code
  | 0x12 => num.toData p.osc1Detune
  | 0x13 => num.toData p.osc2Detune
  | 0x14 => num.toData p.osc1Pw
  | 0x15 => num.toData p.osc2Pw
  | 0x16 => num.toData p.oscMix
  | 0x17 => num.toData p.wtMix
  | 0x18 => kWord p.wtTable
  | 0x19 => num.toData p.wtPos
  | 0x1A => num.toData p.fltCutoff
  | 0x1B => num.toData p.fltRes
  | 0x1C => num.toData p.fltEnvAmt
  | 0x1D => num.toData p.fltDrive
  | 0x1E => num.toData p.ampAttack
  | 0x1F => num.toData p.ampDecay
  | 0x20 => num.toData p.ampSustain
  | 0x21 => num.toData p.ampRelease
  | 0x22 => num.toData p.fenvAttack
  | 0x23 => num.toData p.fenvDecay
  | 0x24 => num.toData p.fenvSustain
  | 0x25 => num.toData p.fenvRelease
  | 0x26 => num.toData p.lfoRate
  | 0x27 => kWord p.lfoWave.code
  | 0x28 => num.toData p.lfoToFilter
  | 0x29 => num.toData p.lfoToPitch
  | 0x2A => num.toData p.masterVol
  | _ => 0#32

/-- `RegRead(a)` (R323). The write-only addresses read zero (R87), and so does an unmapped one, whose command is
rejected. -/
def regReadIn (num : Numerics α) (a : BitVec 8) (s : State.Of α) : Word :=
  if a.toNat = 0x08 then num.toData s.sampleRate
  else if a.toNat = 0x09 then ctrlWord s
  else if a.toNat = 0x0A then statusWord s
  else if a.toNat = 0x0B then activeWord s
  else if h : 0x40 ≤ a.toNat ∧ a.toNat < 0x50 then voiceStatWord s.voices[a.toNat - 0x40]
  else paramRead num s.params a.toNat

/-- `RegRead(a)` in the default format. -/
def regRead (a : BitVec 8) (s : State) : Word := regReadIn binary32 a s

end Machine

end Sys2Proof
end

