-- ==== Sys2Proof/Machine/Control.lean ====
section
/-! DEFINITION. The control commands, `RD` and `NOP` (47_parameter_commands.md R318 to R323): the effect of each in any
configuration, and its meaning, that effect in the machine's. -/

namespace Sys2Proof

namespace Machine

variable {α : Type}

/-- A sample rate given to every component of a voice, in the order of R318; the envelopes recompute their rates. -/
def voiceSetSampleRate (num : Numerics α) (v : VoiceOf α) (x : α) : VoiceOf α :=
  { v with
    osc1 := oscSetSampleRate v.osc1 x
    osc2 := oscSetSampleRate v.osc2 x
    wt := wtSetSampleRate v.wt x
    flt := fltSetSampleRate v.flt x
    lfo := lfoSetSampleRate v.lfo x
    ampEnv := envSetSampleRate num v.ampEnv x
    fltEnv := envSetSampleRate num v.fltEnv x }

/-- The conformed rate `x` stored and given to all 16 voices (R318). -/
def putSampleRate (num : Numerics α) (x : α) (s : State.Of α) : State.Of α :=
  { s with sampleRate := x, voices := mapVoices (fun v => voiceSetSampleRate num v x) s.voices }

/-- `SET_SAMPLE_RATE` (R318). -/
def setSampleRate (c : ConfigOf α) (val : F) (s : State.Of α) : State.Of α :=
  withReal c.num val (fun x => c.num.clamp x c.fsMin c.fsMax) (putSampleRate c.num) s

def execSetSampleRate (val : F) (s : State) : Result := .next (setSampleRate hw val s)

/-- `SET_CTRL` (R319). -/
def setCtrl (bit0 : Bool) (s : State.Of α) : State.Of α := { s with lfoRetrig := bit0 }

def execSetCtrl (bit0 : Bool) (s : State) : Result := .next (setCtrl bit0 s)

/-- `CLR_STATUS` (R320): write-one-to-clear. -/
def clrStatus (bit0 : Bool) (s : State.Of α) : State.Of α := if bit0 then { s with cmdErr := false } else s

def execClrStatus (bit0 : Bool) (s : State) : Result := .next (clrStatus bit0 s)

/-- `RD` (R321): one response word; an unmapped address is a rejected command. -/
def rd (num : Numerics α) (addr : BitVec 8) (s : State.Of α) : State.Of α :=
  if mapped addr then respond (regReadIn num addr s) s else reject .badRead s

def execRd (addr : BitVec 8) (s : State) : Result := .next (rd binary32 addr s)

/-- `NOP` (R322). -/
def nop (s : State.Of α) : State.Of α := s

def execNop (s : State) : Result := .next (nop s)

end Machine

end Sys2Proof
end

