-- ==== Sys2Proof/Machine/Params.lean ====
section
/-! DEFINITION. The 27 parameter setters (47_parameter_commands.md R291 to R317), each an instance of the common shape R290: its
effect in any configuration, and its meaning, that effect in the machine's. -/

namespace Sys2Proof

namespace Machine

variable {α : Type}

/-- `SET_OSC1_WAVE` (R291). -/
def setOsc1Wave (kind : WaveformKind) (s : State.Of α) : State.Of α :=
  setParam kind (fun p x => { p with osc1Wave := x }) (fun v x => { v with osc1 := oscSetWaveform v.osc1 x }) s

def execSetOsc1Wave (kind : WaveformKind) (s : State) : Result := .next (setOsc1Wave kind s)

/-- `SET_OSC2_WAVE` (R292). -/
def setOsc2Wave (kind : WaveformKind) (s : State.Of α) : State.Of α :=
  setParam kind (fun p x => { p with osc2Wave := x }) (fun v x => { v with osc2 := oscSetWaveform v.osc2 x }) s

def execSetOsc2Wave (kind : WaveformKind) (s : State) : Result := .next (setOsc2Wave kind s)

/-- `SET_OSC1_DETUNE` (R293). -/
def setOsc1Detune (c : ConfigOf α) (val : F) (s : State.Of α) : State.Of α :=
  setUnit c.num val (fun p x => { p with osc1Detune := x })
    (fun v x => { v with osc1 := oscSetDetune c.num v.osc1 x }) s

def execSetOsc1Detune (val : F) (s : State) : Result := .next (setOsc1Detune hw val s)

/-- `SET_OSC2_DETUNE` (R294). -/
def setOsc2Detune (c : ConfigOf α) (val : F) (s : State.Of α) : State.Of α :=
  setUnit c.num val (fun p x => { p with osc2Detune := x })
    (fun v x => { v with osc2 := oscSetDetune c.num v.osc2 x }) s

def execSetOsc2Detune (val : F) (s : State) : Result := .next (setOsc2Detune hw val s)

/-- `SET_OSC1_PW` (R295). -/
def setOsc1Pw (c : ConfigOf α) (val : F) (s : State.Of α) : State.Of α :=
  setReal c.num val (c.num.lit .pwMin) (c.num.lit .pwMax) (fun p x => { p with osc1Pw := x })
    (fun v x => { v with osc1 := oscSetPulseWidth c.num v.osc1 x }) s

def execSetOsc1Pw (val : F) (s : State) : Result := .next (setOsc1Pw hw val s)

/-- `SET_OSC2_PW` (R296). -/
def setOsc2Pw (c : ConfigOf α) (val : F) (s : State.Of α) : State.Of α :=
  setReal c.num val (c.num.lit .pwMin) (c.num.lit .pwMax) (fun p x => { p with osc2Pw := x })
    (fun v x => { v with osc2 := oscSetPulseWidth c.num v.osc2 x }) s

def execSetOsc2Pw (val : F) (s : State) : Result := .next (setOsc2Pw hw val s)

/-- `SET_OSC_MIX` (R297). -/
def setOscMix (c : ConfigOf α) (val : F) (s : State.Of α) : State.Of α :=
  setUnit c.num val (fun p x => { p with oscMix := x }) (fun v x => { v with oscMix := x }) s

def execSetOscMix (val : F) (s : State) : Result := .next (setOscMix hw val s)

/-- `SET_WT_MIX` (R298). -/
def setWtMix (c : ConfigOf α) (val : F) (s : State.Of α) : State.Of α :=
  setUnit c.num val (fun p x => { p with wtMix := x }) (fun v x => { v with wtMix := x }) s

def execSetWtMix (val : F) (s : State) : Result := .next (setWtMix hw val s)

/-- `SET_WT_TABLE` (R299). -/
def setWtTable (idx : BitVec 3) (s : State.Of α) : State.Of α :=
  setParam idx (fun p x => { p with wtTable := x }) (fun v x => { v with wt := wtSetTable v.wt x }) s

def execSetWtTable (idx : BitVec 3) (s : State) : Result := .next (setWtTable idx s)

/-- `SET_WT_POS` (R300). -/
def setWtPos (c : ConfigOf α) (val : F) (s : State.Of α) : State.Of α :=
  setUnit c.num val (fun p x => { p with wtPos := x }) (fun v x => { v with wt := wtSetPosition c.num v.wt x }) s

def execSetWtPos (val : F) (s : State) : Result := .next (setWtPos hw val s)

/-- `SET_FLT_CUTOFF` (R301). -/
def setFltCutoff (c : ConfigOf α) (val : F) (s : State.Of α) : State.Of α :=
  setReal c.num val (c.num.lit .cutMin) (c.num.lit .cutMax) (fun p x => { p with fltCutoff := x })
    (fun v x => { v with baseCutoff := x }) s

def execSetFltCutoff (val : F) (s : State) : Result := .next (setFltCutoff hw val s)

/-- `SET_FLT_RES` (R302). -/
def setFltRes (c : ConfigOf α) (val : F) (s : State.Of α) : State.Of α :=
  setUnit c.num val (fun p x => { p with fltRes := x }) (fun v x => { v with flt := fltSetResonance c.num v.flt x }) s

def execSetFltRes (val : F) (s : State) : Result := .next (setFltRes hw val s)

/-- `SET_FLT_ENV_AMT` (R303). -/
def setFltEnvAmt (c : ConfigOf α) (val : F) (s : State.Of α) : State.Of α :=
  setUnit c.num val (fun p x => { p with fltEnvAmt := x }) (fun v x => { v with envAmt := x }) s

def execSetFltEnvAmt (val : F) (s : State) : Result := .next (setFltEnvAmt hw val s)

/-- `SET_FLT_DRIVE` (R304). -/
def setFltDrive (c : ConfigOf α) (val : F) (s : State.Of α) : State.Of α :=
  setReal c.num val (c.num.lit .zero) c.driveMax (fun p x => { p with fltDrive := x })
    (fun v x => { v with flt := fltSetDrive c v.flt x }) s

def execSetFltDrive (val : F) (s : State) : Result := .next (setFltDrive hw val s)

/-- `SET_AMP_ATTACK` (R305). -/
def setAmpAttack (c : ConfigOf α) (val : F) (s : State.Of α) : State.Of α :=
  setReal c.num val c.tMin c.tMax (fun p x => { p with ampAttack := x })
    (fun v x => { v with ampEnv := envSetAttack c v.ampEnv x }) s

def execSetAmpAttack (val : F) (s : State) : Result := .next (setAmpAttack hw val s)

/-- `SET_AMP_DECAY` (R306). -/
def setAmpDecay (c : ConfigOf α) (val : F) (s : State.Of α) : State.Of α :=
  setReal c.num val c.tMin c.tMax (fun p x => { p with ampDecay := x })
    (fun v x => { v with ampEnv := envSetDecay c v.ampEnv x }) s

def execSetAmpDecay (val : F) (s : State) : Result := .next (setAmpDecay hw val s)

/-- `SET_AMP_SUSTAIN` (R307). -/
def setAmpSustain (c : ConfigOf α) (val : F) (s : State.Of α) : State.Of α :=
  setUnit c.num val (fun p x => { p with ampSustain := x })
    (fun v x => { v with ampEnv := envSetSustain c.num v.ampEnv x }) s

def execSetAmpSustain (val : F) (s : State) : Result := .next (setAmpSustain hw val s)

/-- `SET_AMP_RELEASE` (R308). -/
def setAmpRelease (c : ConfigOf α) (val : F) (s : State.Of α) : State.Of α :=
  setReal c.num val c.tMin c.tMax (fun p x => { p with ampRelease := x })
    (fun v x => { v with ampEnv := envSetRelease c v.ampEnv x }) s

def execSetAmpRelease (val : F) (s : State) : Result := .next (setAmpRelease hw val s)

/-- `SET_FENV_ATTACK` (R309). -/
def setFenvAttack (c : ConfigOf α) (val : F) (s : State.Of α) : State.Of α :=
  setReal c.num val c.tMin c.tMax (fun p x => { p with fenvAttack := x })
    (fun v x => { v with fltEnv := envSetAttack c v.fltEnv x }) s

def execSetFenvAttack (val : F) (s : State) : Result := .next (setFenvAttack hw val s)

/-- `SET_FENV_DECAY` (R310). -/
def setFenvDecay (c : ConfigOf α) (val : F) (s : State.Of α) : State.Of α :=
  setReal c.num val c.tMin c.tMax (fun p x => { p with fenvDecay := x })
    (fun v x => { v with fltEnv := envSetDecay c v.fltEnv x }) s

def execSetFenvDecay (val : F) (s : State) : Result := .next (setFenvDecay hw val s)

/-- `SET_FENV_SUSTAIN` (R311). -/
def setFenvSustain (c : ConfigOf α) (val : F) (s : State.Of α) : State.Of α :=
  setUnit c.num val (fun p x => { p with fenvSustain := x })
    (fun v x => { v with fltEnv := envSetSustain c.num v.fltEnv x }) s

def execSetFenvSustain (val : F) (s : State) : Result := .next (setFenvSustain hw val s)

/-- `SET_FENV_RELEASE` (R312). -/
def setFenvRelease (c : ConfigOf α) (val : F) (s : State.Of α) : State.Of α :=
  setReal c.num val c.tMin c.tMax (fun p x => { p with fenvRelease := x })
    (fun v x => { v with fltEnv := envSetRelease c v.fltEnv x }) s

def execSetFenvRelease (val : F) (s : State) : Result := .next (setFenvRelease hw val s)

/-- `SET_LFO_RATE` (R313). -/
def setLfoRate (c : ConfigOf α) (val : F) (s : State.Of α) : State.Of α :=
  setReal c.num val (c.num.lit .lfoMin) (c.num.lit .lfoMax) (fun p x => { p with lfoRate := x })
    (fun v x => { v with lfo := lfoSetRate c.num v.lfo x }) s

def execSetLfoRate (val : F) (s : State) : Result := .next (setLfoRate hw val s)

/-- `SET_LFO_WAVE` (R314). -/
def setLfoWave (kind : WaveformKind) (s : State.Of α) : State.Of α :=
  setParam kind (fun p x => { p with lfoWave := x }) (fun v x => { v with lfo := lfoSetWaveform v.lfo x }) s

def execSetLfoWave (kind : WaveformKind) (s : State) : Result := .next (setLfoWave kind s)

/-- `SET_LFO_TO_FILTER` (R315). -/
def setLfoToFilter (c : ConfigOf α) (val : F) (s : State.Of α) : State.Of α :=
  setUnit c.num val (fun p x => { p with lfoToFilter := x }) (fun v x => { v with lfoToFlt := x }) s

def execSetLfoToFilter (val : F) (s : State) : Result := .next (setLfoToFilter hw val s)

/-- `SET_LFO_TO_PITCH` (R316). -/
def setLfoToPitch (c : ConfigOf α) (val : F) (s : State.Of α) : State.Of α :=
  setUnit c.num val (fun p x => { p with lfoToPitch := x }) (fun v x => { v with lfoToPitch := x }) s

def execSetLfoToPitch (val : F) (s : State) : Result := .next (setLfoToPitch hw val s)

/-- `SET_MASTER_VOL` (R317). No voice holds a copy. -/
def setMasterVol (c : ConfigOf α) (val : F) (s : State.Of α) : State.Of α :=
  setUnit c.num val (fun p x => { p with masterVol := x }) (fun v _ => v) s

def execSetMasterVol (val : F) (s : State) : Result := .next (setMasterVol hw val s)

end Machine

end Sys2Proof
end

