-- ==== Sys2Proof/Machine/Pool.lean ====
section
/-! DEFINITION. The voice pool commands (46_voice_pool.md): `NOTE_ON`, `NOTE_OFF`, `PROCESS`, `BIO_HRV`, `BIO_COH`. The effect of
each in any configuration, and its meaning, that effect in the machine's. -/

namespace Sys2Proof

namespace Machine

variable {α : Type}

/-! ### NOTE_ON -/

/-- `Allocate()` (R267, R268): the first inactive voice, or the steal slot when all are active. -/
def allocate (s : State.Of α) : Fin 16 := (voiceIndices.find? (fun i => !active s i)).getD Config.stealSlot

/-- `NOTE_ON` (R266): allocate, broadcast, voice note-on. -/
def noteOn (c : ConfigOf α) (note vel : BitVec 7) (s : State.Of α) : State.Of α :=
  { s with
    voices := updateVoice (allocate s)
      (fun v => voiceNoteOn c s.lfoRetrig note vel (broadcast c s.params s.sampleRate v)) s.voices }

def execNoteOn (note vel : BitVec 7) (s : State) : Result := .next (noteOn hw note vel s)

/-! ### NOTE_OFF -/

/-- One voice under `NOTE_OFF` (R270). -/
def releaseIfNote (note : BitVec 7) (v : VoiceOf α) : VoiceOf α :=
  if voiceIsActive v && v.note == note then voiceNoteOff v else v

/-- `NOTE_OFF` (R270). -/
def noteOff (note : BitVec 7) (s : State.Of α) : State.Of α :=
  { s with voices := mapVoices (releaseIfNote note) s.voices }

def execNoteOff (note : BitVec 7) (s : State) : Result := .next (noteOff note s)

/-! ### PROCESS -/

/-- One turn of the inner loop of `Frame` (R272): `acc` and the state before it to those after it. An inactive voice
is skipped entirely. -/
def frameVoice (c : ConfigOf α) (a : α × State.Of α) (i : Fin 16) : α × State.Of α :=
  if active a.2 i then
    let r := voiceProcess c a.2.draws a.2.voices[i]
    (c.num.add a.1 r.1, { a.2 with voices := a.2.voices.set i r.2.1, draws := r.2.2 })
  else a

/-- The sum over the voices, from `+0.0` and voice 0 upward (R272). -/
def frameSum (c : ConfigOf α) (s : State.Of α) : α × State.Of α :=
  voiceIndices.foldl (frameVoice c) (c.num.lit .zero, s)

/-- `Frame()` (R272, R273). -/
def frame (c : ConfigOf α) (s : State.Of α) : State.Of α :=
  let r := frameSum c s
  let out := c.num.mul r.1 s.params.masterVol
  emit out out r.2

/-- The `count` frames of `PROCESS` (R271). -/
def processFrames (c : ConfigOf α) : Nat → State.Of α → State.Of α
  | 0, s => s
  | n + 1, s => processFrames c n (frame c s)

def execProcess (count : BitVec 32) (s : State) : Result := .next (processFrames hw count.toNat s)

/-! ### Bio-reactive remap -/

/-- The cutoff `BIO_HRV` stores (R275). -/
def bioCutoff (c : ConfigOf α) (x : α) : α :=
  c.num.clamp (c.num.add c.bioCutBase (c.num.mul (c.num.clampUnit x) c.bioCutSpan))
    (c.num.lit .cutMin) (c.num.lit .cutMax)

/-- `BIO_HRV` (R275). -/
def bioHrv (c : ConfigOf α) (val : F) (s : State.Of α) : State.Of α :=
  withReal c.num val (bioCutoff c)
    (fun x => setParam x (fun p y => { p with fltCutoff := y }) (fun v y => { v with baseCutoff := y })) s

def execBioHrv (val : F) (s : State) : Result := .next (bioHrv hw val s)

/-- `BIO_COH` (R276). -/
def bioCoh (c : ConfigOf α) (val : F) (s : State.Of α) : State.Of α :=
  setUnit c.num val (fun p y => { p with wtPos := y }) (fun v y => { v with wt := wtSetPosition c.num v.wt y }) s

def execBioCoh (val : F) (s : State) : Result := .next (bioCoh hw val s)

end Machine

end Sys2Proof
end

