-- ==== Sys2Proof/Machine/Dispatch.lean ====
section
/-! DEFINITION. The dispatch of a command to its meaning: one arm per constructor of Instr. -/

namespace Sys2Proof

namespace Machine

def exec (i : Instr) (s : State) : Host.Outcome State Fault Refusal :=
  match i with
  | .nop => Sys2Proof.Machine.execNop s
  | .noteOn note vel => Sys2Proof.Machine.execNoteOn note vel s
  | .noteOff note => Sys2Proof.Machine.execNoteOff note s
  | .process count => Sys2Proof.Machine.execProcess count s
  | .bioHrv val => Sys2Proof.Machine.execBioHrv val s
  | .bioCoh val => Sys2Proof.Machine.execBioCoh val s
  | .setSampleRate val => Sys2Proof.Machine.execSetSampleRate val s
  | .setCtrl bit0 => Sys2Proof.Machine.execSetCtrl bit0 s
  | .clrStatus bit0 => Sys2Proof.Machine.execClrStatus bit0 s
  | .setOsc1Wave kind => Sys2Proof.Machine.execSetOsc1Wave kind s
  | .setOsc2Wave kind => Sys2Proof.Machine.execSetOsc2Wave kind s
  | .setOsc1Detune val => Sys2Proof.Machine.execSetOsc1Detune val s
  | .setOsc2Detune val => Sys2Proof.Machine.execSetOsc2Detune val s
  | .setOsc1Pw val => Sys2Proof.Machine.execSetOsc1Pw val s
  | .setOsc2Pw val => Sys2Proof.Machine.execSetOsc2Pw val s
  | .setOscMix val => Sys2Proof.Machine.execSetOscMix val s
  | .setWtMix val => Sys2Proof.Machine.execSetWtMix val s
  | .setWtTable idx => Sys2Proof.Machine.execSetWtTable idx s
  | .setWtPos val => Sys2Proof.Machine.execSetWtPos val s
  | .setFltCutoff val => Sys2Proof.Machine.execSetFltCutoff val s
  | .setFltRes val => Sys2Proof.Machine.execSetFltRes val s
  | .setFltEnvAmt val => Sys2Proof.Machine.execSetFltEnvAmt val s
  | .setFltDrive val => Sys2Proof.Machine.execSetFltDrive val s
  | .setAmpAttack val => Sys2Proof.Machine.execSetAmpAttack val s
  | .setAmpDecay val => Sys2Proof.Machine.execSetAmpDecay val s
  | .setAmpSustain val => Sys2Proof.Machine.execSetAmpSustain val s
  | .setAmpRelease val => Sys2Proof.Machine.execSetAmpRelease val s
  | .setFenvAttack val => Sys2Proof.Machine.execSetFenvAttack val s
  | .setFenvDecay val => Sys2Proof.Machine.execSetFenvDecay val s
  | .setFenvSustain val => Sys2Proof.Machine.execSetFenvSustain val s
  | .setFenvRelease val => Sys2Proof.Machine.execSetFenvRelease val s
  | .setLfoRate val => Sys2Proof.Machine.execSetLfoRate val s
  | .setLfoWave kind => Sys2Proof.Machine.execSetLfoWave kind s
  | .setLfoToFilter val => Sys2Proof.Machine.execSetLfoToFilter val s
  | .setLfoToPitch val => Sys2Proof.Machine.execSetLfoToPitch val s
  | .setMasterVol val => Sys2Proof.Machine.execSetMasterVol val s
  | .rd addr => Sys2Proof.Machine.execRd addr s

end Machine

end Sys2Proof
end

