-- ==== Sys2Proof/Machine/Fetch.lean ====
section
/-! DEFINITION. The command port (20_memory.md R90, 70_reset_and_hazards.md R393; log 10): how the next command word is taken and
run. ESE18 fetches no instructions and has no program counter (10_state.md R34). -/

namespace Sys2Proof

namespace Machine

/-- The next command word, and the machine with it taken off the port; none when nothing is presented. -/
def takeWord (s : State) : Option (CommandWord × State) :=
  match s.port with
  | [] => none
  | w :: rest => some (w, { s with port := rest })

/-- A command word run: decoded (R120) and executed, or rejected (R352, the first treatment of R353). -/
def runWord (w : CommandWord) (s : State) : Result :=
  match decode w with
  | .ok i => exec i s
  | .error r => .next (reject r s)

/-- The host presents the words `ws` after those already presented. -/
def present (ws : List CommandWord) (s : State) : State := { s with port := s.port ++ ws }

/-- The word `w` placed so that it is the very next one taken. -/
def placeWord (w : CommandWord) (s : State) : State := { s with port := w :: s.port }

end Machine

end Sys2Proof
end

