-- ==== Sys2Proof/Machine/Step.lean ====
section
/-! DEFINITION. One step: the next presented command word is taken and run completely (20_memory.md R90); with nothing presented the
machine holds its state (60_exceptions.md R365). -/

namespace Sys2Proof

namespace Machine

/-- One step of the machine. -/
def step (s : State) : Host.Outcome State Fault Refusal :=
  match takeWord s with
  | none => .next s
  | some (w, t) => runWord w t

/-- `s` with the table word `w` of `nbits` bits placed where `step` takes its next command. -/
def State.withFetchWord (s : State) (nbits w : Nat) : State := placeWord (tableWord nbits w) s

end Machine

end Sys2Proof
end

