-- ==== Sys2Proof/Machine/Effect.lean ====
section
/-! DEFINITION. The machine in any configuration and any number format (00_scope.md R8, R12): the effect of a command, of a
command word, and one step. `exec`, `runWord` and `step` are these in the default configuration `hw`
(Laws/Hardware.lean: `exec_eq`, `step_eq`); a claim about every value of a parameter of R8 is one about these. -/

namespace Sys2Proof

namespace Machine

variable {α : Type}

/-- The effect of a command in the machine of configuration `c`. No command fails (60_exceptions.md R350). -/
def effect (c : ConfigOf α) (i : Instr) (s : State.Of α) : State.Of α :=
  match i with
  | .nop => nop s
  | .noteOn note vel => noteOn c note vel s
  | .noteOff note => noteOff note s
  | .process count => processFrames c count.toNat s
  | .bioHrv val => bioHrv c val s
  | .bioCoh val => bioCoh c val s
  | .setSampleRate val => setSampleRate c val s
  | .setCtrl bit0 => setCtrl bit0 s
  | .clrStatus bit0 => clrStatus bit0 s
  | .setOsc1Wave kind => setOsc1Wave kind s
  | .setOsc2Wave kind => setOsc2Wave kind s
  | .setOsc1Detune val => setOsc1Detune c val s
  | .setOsc2Detune val => setOsc2Detune c val s
  | .setOsc1Pw val => setOsc1Pw c val s
  | .setOsc2Pw val => setOsc2Pw c val s
  | .setOscMix val => setOscMix c val s
  | .setWtMix val => setWtMix c val s
  | .setWtTable idx => setWtTable idx s
  | .setWtPos val => setWtPos c val s
  | .setFltCutoff val => setFltCutoff c val s
  | .setFltRes val => setFltRes c val s
  | .setFltEnvAmt val => setFltEnvAmt c val s
  | .setFltDrive val => setFltDrive c val s
  | .setAmpAttack val => setAmpAttack c val s
  | .setAmpDecay val => setAmpDecay c val s
  | .setAmpSustain val => setAmpSustain c val s
  | .setAmpRelease val => setAmpRelease c val s
  | .setFenvAttack val => setFenvAttack c val s
  | .setFenvDecay val => setFenvDecay c val s
  | .setFenvSustain val => setFenvSustain c val s
  | .setFenvRelease val => setFenvRelease c val s
  | .setLfoRate val => setLfoRate c val s
  | .setLfoWave kind => setLfoWave kind s
  | .setLfoToFilter val => setLfoToFilter c val s
  | .setLfoToPitch val => setLfoToPitch c val s
  | .setMasterVol val => setMasterVol c val s
  | .rd addr => rd c.num addr s

/-- A command word run: decoded (R120) and executed, or rejected (R352, the first treatment of R353). -/
def effectWord (c : ConfigOf α) (w : CommandWord) (s : State.Of α) : State.Of α :=
  match decodeIn c.frameCountBits w with
  | .ok i => effect c i s
  | .error r => reject r s

/-- One step: the next presented command word is taken and run (20_memory.md R90); with none presented the state stays
(60_exceptions.md R365). -/
def stepIn (c : ConfigOf α) (s : State.Of α) : State.Of α :=
  match s.port with
  | [] => s
  | w :: rest => effectWord c w { s with port := rest }

end Machine

end Sys2Proof
end

