-- ==== Sys2Proof/Machine/Transcend.lean ====
section
/-! DEFINITION. The DEFAULT of the three configuration functions: the correctly rounded binary32 result of sine,
hyperbolic tangent and 2 to the power x (R18; log 4). The machine `hw` does not assume them (R18); a
configuration built from them, `reference`, is what the vectors of 95_test_vectors.md marked with a dagger hold for.

Each function is computed in integers with `fixBits` fraction bits, its error far below the distance at which a
binary32 argument can bring the exact result near a rounding boundary, and rounded once by `F.ofRatio`. -/

namespace Sys2Proof

namespace Machine

/-- Fraction bits of the fixed-point numbers of this file. -/
def fixBits : Nat := 640

/-- Pi, rounded down to `fixBits` fraction bits. -/
def piFix : Nat := 0x3243f6a8885a308d313198a2e03707344a4093822299f31d0082efa98ec4e6c89452821e638d01377be5466cf34e90c6cc0ac29b7c97c50dd3f84d5b5b54709179216d5d98979fb1bd1310ba698dfb5ac

/-- The natural logarithm of 2, rounded down to `fixBits` fraction bits. -/
def ln2Fix : Nat := 0xb17217f7d1cf79abc9e3b39803f2f6af40f343267298b62d8a0d175b8baafa2be7b876206debac98559552fb4afa1b10ed2eae35c138214427573b291169b8253e96ca16224ae8c51acbda11317c387e

/-- `n` further terms, from the `j`-th on, of the exponential series of `t` in nested form:
1 + t/j (1 + t/(j+1) (1 + ...)). -/
def expNested (t : Nat) : Nat → Nat → Nat
  | 0, _ => 2 ^ fixBits
  | n + 1, j => 2 ^ fixBits + t * expNested t n (j + 1) / 2 ^ fixBits / j

/-- The same for the sine series of a number whose square is `y2`, divided by the number:
1 - y2/((2j)(2j+1)) (1 - ...). -/
def sinNested (y2 : Nat) : Nat → Nat → Nat
  | 0, _ => 2 ^ fixBits
  | n + 1, j => 2 ^ fixBits - y2 * sinNested y2 n (j + 1) / 2 ^ fixBits / ((2 * j) * (2 * j + 1))

/-- The sine of `y` in [0, pi/2], in fixed point. -/
def sinFix (y : Nat) : Nat := y * sinNested (y * y / 2 ^ fixBits) 80 1 / 2 ^ fixBits

/-- The magnitude of a finite `x` in fixed point (exact). -/
def fixOf (x : F) : Nat := x.mag * 2 ^ (fixBits - 149)

/-- Folds `y` in [0, pi) into [0, pi/2] without changing its sine. -/
def foldPi (y : Nat) : Nat := if piFix < 2 * y then piFix - y else y

/-- Correctly rounded sine. At an infinity or a NaN, where R18 states no value, it is a NaN: the model's choice, DESIGN CHOICE
(log 4). -/
def fsinCR (x : F) : F :=
  if x.isFinite then
    F.ofRatio (x.sign != decide (fixOf x / piFix % 2 = 1))
      (sinFix (foldPi (fixOf x % piFix)) * F.unit) (2 ^ fixBits)
  else F.asNaN x.bits

/-- Correctly rounded hyperbolic tangent, as (E - 1) / (E + 1) with E the exponential of `2 x`. At a NaN, where R18 says a NaN
and not which, it is that NaN: the model's choice, DESIGN CHOICE (log 4). -/
def ftanhCR (x : F) : F :=
  if x.isNaN then x
  else if tanhSat.le x.abs then (if x.sign then F.minusOne else F.one)
  else F.ofRatio x.sign ((expNested (2 * fixOf x) 280 1 - 2 ^ fixBits) * F.unit)
    (expNested (2 * fixOf x) 280 1 + 2 ^ fixBits)

/-- 2 to the power of `(x - floor x)`, in fixed point. -/
def exp2FracFix (x : F) : Nat :=
  expNested ((x.scaled - x.floor * (F.unit : Int)).toNat * ln2Fix / F.unit) 120 1

/-- Correctly rounded 2 to the power `x`. At a NaN it is that NaN and at -infinity it is +0.0; R18 states no value at either:
the model's choice, DESIGN CHOICE (log 4). -/
def fexp2CR (x : F) : F :=
  if x.isNaN then x
  else if 128 ≤ x.floor then F.inf false
  else if x.floor < -150 then F.zero
  else F.ofRatio false (exp2FracFix x * 2 ^ (x.floor + 150).toNat) (2 ^ (fixBits + 1))

/-- A configuration with every default of R8, and the wavetable and the noise given. -/
def reference (rom : Nat → Nat → Nat → F) (draw : Nat → F) : Config :=
  configWith binary32 fsinCR ftanhCR fexp2CR rom draw

end Machine

end Sys2Proof
end

