-- ==== Sys2Proof/Safety.lean ====
section
/-! DEFINITION. The terms in which claims about ESE18 are stated: domains and invariants (10_state.md R31, R44, R46,
R51, R52), the named properties of the configuration (00_scope.md R18, R172, R194), and what a setter does (R290). -/

namespace Sys2Proof

namespace Machine

/-! ### Ranges of values -/

/-- `x` is not a NaN and lies in `[lo, hi]`. -/
def InRange (lo hi x : F) : Prop := F.within lo hi x = true

/-- `x` lies in [0, 1]. -/
def InUnit (x : F) : Prop := InRange F.zero F.one x

/-- `x` lies in [0, 1), as a phase does (R51). -/
def IsPhase (x : F) : Prop := F.zero.le x = true ∧ x.lt F.one = true

/-- `x` lies in [-1, 1], as a waveform sample or a draw does (R20, R235). -/
def IsBipolar (x : F) : Prop := InRange F.minusOne F.one x

/-- 12.0, the bound on a filter stage (R200). -/
def stageBound : F := ⟨0x41400000#32⟩

/-- `x` lies in [-12, 12]. -/
def IsStage (x : F) : Prop := InRange stageBound.neg stageBound x

/-! ### Named properties of a configuration -/

/-- `TANH_BOUND` for the arguments that are no NaN (R18). -/
def TanhBound (c : Config) : Prop := ∀ x : F, x.isNaN = false → IsBipolar (c.ftanh x)

/-- `TANH_MONO` (R18). -/
def TanhMono (c : Config) : Prop := ∀ x y : F, x.le y = true → (c.ftanh x).le (c.ftanh y) = true

/-- `TANH_SAT` (R18). -/
def TanhSat (c : Config) : Prop :=
  ∀ x : F, (tanhSat.le x = true → c.ftanh x = F.one) ∧ (x.le tanhSat.neg = true → c.ftanh x = F.minusOne)

/-- `TANH_ZERO` (R18). -/
def TanhZero (c : Config) : Prop := ∀ x : F, x.mag = 0 → c.ftanh x = x

/-- `TANH_ODD` (R18), for the arguments that are no NaN. -/
def TanhOdd (c : Config) : Prop := ∀ x : F, x.isNaN = false → c.ftanh x.neg = (c.ftanh x).neg

/-- `SIN_BOUND` (R18). -/
def SinBound (c : Config) : Prop := ∀ x : F, x.isFinite = true → IsBipolar (c.fsin x)

/-- `SIN_ZERO` (R18). -/
def SinZero (c : Config) : Prop := ∀ x : F, x.mag = 0 → c.fsin x = x

/-- `EXP2_INT` (R18): at an integer from -126 to 127 the result is that power of two, whose exponent field is the
integer plus 127 and whose fraction is zero. -/
def Exp2Int (c : Config) : Prop :=
  ∀ n : Int, -126 ≤ n → n ≤ 127 → c.fexp2 (F.itof n) = F.build false ((n + 127).toNat * 2 ^ 23)

/-- `EXP2_POS` (R18). -/
def Exp2Pos (c : Config) : Prop :=
  ∀ x : F, x.isFinite = true →
    F.zero.le (c.fexp2 x) = true ∧ (x.le ⟨0x42FE0000#32⟩ = true → (c.fexp2 x).isFinite = true)

/-- `EXP2_MONO` (R18). -/
def Exp2Mono (c : Config) : Prop := ∀ x y : F, x.le y = true → (c.fexp2 x).le (c.fexp2 y) = true

/-- `G_RANGE` (R194): for `fc` in [0, 0.5], `GCoef(fc)` lies in [0, 1.25]. -/
def GRange (c : Config) : Prop := ∀ fc : F, InRange F.zero F.half fc → InRange F.zero ⟨0x3FA00000#32⟩ (c.gCoef fc)

/-- R172 (d): every wavetable entry lies in [-1, 1]. -/
def RomBounded (c : Config) : Prop := ∀ t f s : Nat, IsBipolar (c.wtRom t f s)

/-- R20: every draw lies in [-1, 1]. -/
def DrawBounded (c : Config) : Prop := ∀ k : Nat, IsBipolar (c.draw k)

/-! ### Invariants -/

/-- Every parameter register and `SAMPLE_RATE` lies in its domain (R31, R36, R52). The `K` registers cannot hold
anything else by their type. -/
def InDomain (s : State) : Prop :=
  InUnit s.params.osc1Detune ∧ InUnit s.params.osc2Detune ∧
  InRange Config.pwMin Config.pwMax s.params.osc1Pw ∧ InRange Config.pwMin Config.pwMax s.params.osc2Pw ∧
  InUnit s.params.oscMix ∧ InUnit s.params.wtMix ∧ InUnit s.params.wtPos ∧
  InRange Config.cutMin Config.cutMax s.params.fltCutoff ∧ InUnit s.params.fltRes ∧
  InUnit s.params.fltEnvAmt ∧ InRange F.zero hw.driveMax s.params.fltDrive ∧
  InRange hw.tMin hw.tMax s.params.ampAttack ∧ InRange hw.tMin hw.tMax s.params.ampDecay ∧
  InUnit s.params.ampSustain ∧ InRange hw.tMin hw.tMax s.params.ampRelease ∧
  InRange hw.tMin hw.tMax s.params.fenvAttack ∧ InRange hw.tMin hw.tMax s.params.fenvDecay ∧
  InUnit s.params.fenvSustain ∧ InRange hw.tMin hw.tMax s.params.fenvRelease ∧
  InRange Config.lfoMin Config.lfoMax s.params.lfoRate ∧ InUnit s.params.lfoToFilter ∧
  InUnit s.params.lfoToPitch ∧ InUnit s.params.masterVol ∧ InRange hw.fsMin hw.fsMax s.sampleRate

/-- An oscillator's copies equal the globals given (R44). -/
def OscCopies (o : Osc) (kind : WaveformKind) (pw detune fs : F) : Prop :=
  o.kind = kind ∧ o.pw = pw ∧ o.detune = detune ∧ o.fs = fs

/-- An envelope's copies equal the globals given (R44), and its cached rates are those of R211 (R46). -/
def EnvCopies (e : Env) (a d x r fs : F) : Prop :=
  e.attackMs = a ∧ e.decayMs = d ∧ e.sustain = x ∧ e.releaseMs = r ∧ e.fs = fs ∧
  e.aRate = envRate binary32 a fs ∧ e.dRate = envRate binary32 d fs ∧ e.rRate = envRate binary32 r fs

/-- Every parameter copy of a voice equals its global register, and its cached rates are current (R44, R46). -/
def VoiceCopies (p : Params) (fs : F) (v : Voice) : Prop :=
  OscCopies v.osc1 p.osc1Wave p.osc1Pw p.osc1Detune fs ∧ OscCopies v.osc2 p.osc2Wave p.osc2Pw p.osc2Detune fs ∧
  (v.wt.table = p.wtTable ∧ v.wt.morph = p.wtPos ∧ v.wt.fs = fs) ∧
  (v.flt.res = p.fltRes ∧ v.flt.drive = p.fltDrive ∧ v.flt.fs = fs) ∧
  EnvCopies v.ampEnv p.ampAttack p.ampDecay p.ampSustain p.ampRelease fs ∧
  EnvCopies v.fltEnv p.fenvAttack p.fenvDecay p.fenvSustain p.fenvRelease fs ∧
  (v.lfo.rate = p.lfoRate ∧ v.lfo.kind = p.lfoWave ∧ v.lfo.fs = fs) ∧
  v.oscMix = p.oscMix ∧ v.wtMix = p.wtMix ∧ v.envAmt = p.fltEnvAmt ∧ v.lfoToFlt = p.lfoToFilter ∧
  v.lfoToPitch = p.lfoToPitch ∧ v.baseCutoff = p.fltCutoff

/-- R44 for all 16 voices. -/
def CopiesCurrent (s : State) : Prop := ∀ i : Fin 16, VoiceCopies s.params s.sampleRate s.voices[i]

/-- An envelope's level and release snapshot lie in [0, 1], and Idle means level 0.0 (R42, R51, R52). -/
def EnvSound (e : Env) : Prop := InUnit e.level ∧ InUnit e.relStart ∧ (e.stage = .idle → e.level = F.zero)

/-- A voice's phases, levels, velocity and base frequency are what R38 to R43 and R51 say. -/
def VoiceSound (v : Voice) : Prop :=
  IsPhase v.osc1.phase ∧ IsPhase v.osc2.phase ∧ IsPhase v.wt.phase ∧ IsPhase v.lfo.phase ∧
  EnvSound v.ampEnv ∧ EnvSound v.fltEnv ∧ InUnit v.vel ∧ (F.zero.le v.baseFreq = true ∧ v.baseFreq.isFinite = true)

/-- R51 and R52 for all 16 voices. -/
def VoicesSound (s : State) : Prop := ∀ i : Fin 16, VoiceSound s.voices[i]

/-- The invariant of R44, R46, R51 and R52: registers in their domains, copies current, phases in [0, 1), levels in
[0, 1], an Idle envelope at level zero. -/
def EngineInv (s : State) : Prop := InDomain s ∧ CopiesCurrent s ∧ VoicesSound s

/-- The four stage outputs of a filter lie in [-12, 12] (R200). -/
def FltBounded (f : Flt) : Prop := IsStage f.s0 ∧ IsStage f.s1 ∧ IsStage f.s2 ∧ IsStage f.s3

/-- R200 for all 16 voices. -/
def StagesBounded (s : State) : Prop := ∀ i : Fin 16, FltBounded s.voices[i].flt

/-! ### What setters and other commands do -/

/-- `mk` is an `F`-format setter at `addr` with domain `[lo, hi]` that stores by `store` and gives each voice its copy by
`copy` (R290). Decoding: a NaN is rejected, any other `DATA` is the operand. Effect: register and all 16 copies receive
the clamped value, and nothing else changes; the word of a NaN operand only sets `CMDERR` (R115 (f)), and a NaN operand given
to `exec` directly does the same, by the model's own choice (log 14). So in the machine, and so in every configuration of
the default format, the bounds being those of the configuration (00_scope.md R8). -/
def IsRealSetter (addr : BitVec 8) (mk : F → Instr) (lo hi : Config → F) (store : Params → F → Params)
    (copy : Voice → F → Voice) : Prop :=
  (∀ d : Word, decode (writeWord addr d) = if (F.mk d).isNaN then .error .nanOperand else .ok (mk ⟨d⟩)) ∧
  (∀ (val : F) (s : State), val.isNaN = false →
    ∃ t, exec (mk val) s = .next t ∧
      t = { s with params := store s.params (val.clamp (lo hw) (hi hw)), voices := t.voices } ∧
      ∀ i : Fin 16, t.voices[i] = copy s.voices[i] (val.clamp (lo hw) (hi hw))) ∧
  (∀ (val : F) (s : State), val.isNaN = true → exec (mk val) s = .next { s with cmdErr := true }) ∧
  (∀ (d : Word) (s : State), (F.mk d).isNaN = true → runWord (writeWord addr d) s = .next { s with cmdErr := true }) ∧
  (∀ c : Config, c.num = binary32 → (hi c).lt (lo c) = false → ∀ (val : F) (s : State),
    (val.isNaN = false →
      (effect c (mk val) s).params = store s.params (val.clamp (lo c) (hi c)) ∧
      effect c (mk val) s =
        { s with params := (effect c (mk val) s).params, voices := (effect c (mk val) s).voices } ∧
      ∀ i : Fin 16, (effect c (mk val) s).voices[i] = copy s.voices[i] (val.clamp (lo c) (hi c))) ∧
    (val.isNaN = true → effect c (mk val) s = { s with cmdErr := true }))

/-- `mk` is a `K`-format setter at `addr` whose operand is `DATA[2:0]` read by `read` (R290). -/
def IsIndexSetter {α : Type} (addr : BitVec 8) (mk : α → Instr) (read : BitVec 3 → α) (store : Params → α → Params)
    (copy : Voice → α → Voice) : Prop :=
  (∀ d : Word, decode (writeWord addr d) = .ok (mk (read (d.extractLsb' 0 3)))) ∧
  (∀ (x : α) (s : State),
    ∃ t, exec (mk x) s = .next t ∧ t = { s with params := store s.params x, voices := t.voices } ∧
      ∀ i : Fin 16, t.voices[i] = copy s.voices[i] x)

/-- A voice without its parameter copies: note, velocities, base frequency, phases, transient frequencies and cutoff,
filter stages, envelope stages, levels and release snapshots. What no setter touches (R290, R318). -/
def soundState (v : Voice) :
    (BitVec 7 × BitVec 7 × F × F) × (F × F × F × F) × (F × F × F × F) × (F × F × F × F) ×
      (Stage × F × F) × (Stage × F × F) :=
  ((v.note, v.velRaw, v.vel, v.baseFreq), (v.osc1.phase, v.osc2.phase, v.wt.phase, v.lfo.phase),
    (v.osc1.freq, v.osc2.freq, v.wt.freq, v.flt.cutoff), (v.flt.s0, v.flt.s1, v.flt.s2, v.flt.s3),
    (v.ampEnv.stage, v.ampEnv.level, v.ampEnv.relStart), (v.fltEnv.stage, v.fltEnv.level, v.fltEnv.relStart))

/-- The voice has no Noise waveform in any of its three generators, so its processing takes no draw. -/
def NoNoise {α : Type} (v : VoiceOf α) : Prop :=
  v.lfo.kind ≠ .noise ∧ v.osc1.kind ≠ .noise ∧ v.osc2.kind ≠ .noise

/-- How many draws one sample of a voice takes (R156, R235, R251). -/
def voiceDraws {α : Type} (v : VoiceOf α) : Nat := drawsOf v.lfo.kind + drawsOf v.osc1.kind + drawsOf v.osc2.kind

/-- How many draws the active voices before voice `j` take in the next frame, added to those taken so far: the draw
count with which `Frame` reaches voice `j` (R20, R272). -/
def drawsBefore {α : Type} (s : State.Of α) (j : Fin 16) : Nat :=
  s.draws + ((voiceIndices.filter (fun i => decide (i < j) && active s i)).map (fun i => voiceDraws s.voices[i])).sum

/-- Reading address `addr` after the `F`-format setter `mk` gives the clamped value, and every other address reads as
before (R32, R87). -/
def ReadsBackReal (addr : BitVec 8) (mk : F → Instr) (lo hi : F) : Prop :=
  ∀ (val : F) (s : State), val.isNaN = false →
    ∃ t, exec (mk val) s = .next t ∧ regRead addr t = (val.clamp lo hi).bits ∧
      ∀ b : BitVec 8, b ≠ addr → regRead b t = regRead b s

/-- Reading address `addr` after the `K`-format setter `mk` gives the number written, and every other address reads as
before (R32, R87). -/
def ReadsBackIndex {α : Type} (addr : BitVec 8) (mk : α → Instr) (code : α → BitVec 3) : Prop :=
  ∀ (x : α) (s : State),
    ∃ t, exec (mk x) s = .next t ∧ (regRead addr t).toNat = (code x).toNat ∧
      ∀ b : BitVec 8, b ≠ addr → regRead b t = regRead b s

/-- The exact value `num / den` (`den > 0`) lies no nearer to any other finite number than to `r`, and a tie is only
with an `r` whose last bit is 0: rounding to nearest, ties to even (R13). Values are in units of 2^-149. -/
def NearestEven (num den : Int) (r : F) : Prop :=
  ∀ y : F, y.isFinite = true →
    |r.scaled * den - num| ≤ |y.scaled * den - num| ∧
      (y.scaled ≠ r.scaled → |r.scaled * den - num| = |y.scaled * den - num| → r.bits.toNat % 2 = 0)

/-- The exact value `num / den` reaches half a unit in the last place beyond the largest finite number (R13). -/
def Overflows (num den : Int) : Prop := (2 ^ 277 - 2 ^ 252) * den ≤ |num|

/-- `r` is the exact value `num / den` rounded to nearest, ties to even (R13): the infinity of its sign exactly at overflow,
and otherwise a finite number, the nearest. -/
def RoundsTo (num den : Int) (r : F) : Prop :=
  (r.isInf = true ↔ Overflows num den) ∧ (r.isInf = true → r.sign = decide (num < 0)) ∧
    (¬ Overflows num den → r.isFinite = true ∧ NearestEven num den r)

end Machine

end Sys2Proof
end

