-- ==== Sys2Proof/Certificates/Slice0/Obligations.lean ====
section
/-! DEFINITION. The statements about ESE18, one `def Obligations.<Name> : Prop` each, listed in OBLIGATIONS.json. -/

open Sys2Proof Sys2Proof.Machine

/-- One word of every family and format, taken from the examples of the spec's command rules, decodes to the command
and operands the rule gives it. (R110, R111, R114.) -/
def Obligations.SpecExampleWordsDecode : Prop :=
  decode 0x0000000000000000#64 = .ok .nop ∧
  decode 0x0100000000007F45#64 = .ok (.noteOn 69#7 127#7) ∧
  decode 0x010000010000003C#64 = .ok (.noteOff 60#7) ∧
  decode 0x0100000200000004#64 = .ok (.process 4#32) ∧
  decode 0x010000033F000000#64 = .ok (.bioHrv F.half) ∧
  decode 0x010000043E800000#64 = .ok (.bioCoh F.quarter) ∧
  decode 0x01000008472C4400#64 = .ok (.setSampleRate ⟨0x472C4400#32⟩) ∧
  decode 0x0100000900000001#64 = .ok (.setCtrl true) ∧
  decode 0x01000009FFFFFFFE#64 = .ok (.setCtrl false) ∧
  decode 0x0100000A00000001#64 = .ok (.clrStatus true) ∧
  decode 0x0100001000000003#64 = .ok (.setOsc1Wave .square) ∧
  decode 0x010000100000000A#64 = .ok (.setOsc1Wave .sawtooth) ∧
  decode 0x0100001800000007#64 = .ok (.setWtTable 7#3) ∧
  decode 0x0100001A447A0000#64 = .ok (.setFltCutoff ⟨0x447A0000#32⟩) ∧
  decode 0x0100001E41200000#64 = .ok (.setAmpAttack ⟨0x41200000#32⟩) ∧
  decode 0x0100002543960000#64 = .ok (.setFenvRelease ⟨0x43960000#32⟩) ∧
  decode 0x0100002700000001#64 = .ok (.setLfoWave .triangle) ∧
  decode 0x0100002A3F800000#64 = .ok (.setMasterVol F.one) ∧
  decode 0x0200001A00000000#64 = .ok (.rd 0x1A#8)

/-- For every well-formed command, with every operand at every value its format admits, decoding the word the
encoder writes gives exactly that command; and every accepted word decodes to a well-formed command; and so for
every width of the frame count up to 32 bits (FRAMECOUNT_BITS is a parameter, R8). (R110, R111, R118, R120, R8.) -/
def Obligations.DecodeOfEncodeIsTheCommand : Prop :=
  (∀ i : Instr, i.wf = true → decode (encode i) = .ok i) ∧
  (∀ (w : CommandWord) (i : Instr), decode w = .ok i → i.wf = true) ∧
  (∀ bits : Nat, bits ≤ 32 →
    (∀ i : Instr, i.wfIn bits = true → decodeIn bits (encode i) = .ok i) ∧
    (∀ (w : CommandWord) (i : Instr), decodeIn bits w = .ok i → i.wfIn bits = true))

/-- Two accepted words with equal OPC and ADDR decode to commands of the same mnemonic; two accepted words whose
commands have the same mnemonic, other than RD, have equal OPC and ADDR; and the canonical word of an accepted
word's command has that word's OPC and ADDR and RSV = 0. (R110.) -/
def Obligations.CommandIsIdentifiedByOpcAndAddr : Prop :=
  (∀ (w w' : CommandWord) (i i' : Instr), decode w = .ok i → decode w' = .ok i' →
    (opcOf w = opcOf w' → addrOf w = addrOf w' → i.mnemonic = i'.mnemonic) ∧
    (i.mnemonic = i'.mnemonic → i.mnemonic ≠ "RD" → opcOf w = opcOf w' ∧ addrOf w = addrOf w')) ∧
  (∀ (w : CommandWord) (i : Instr), decode w = .ok i →
    opcOf (encode i) = opcOf w ∧ addrOf (encode i) = addrOf w ∧ rsvOf (encode i) = 0#16)

/-- There are 37 rows; no word is selected by two; an accepted word is selected by the row of its command's
mnemonic; and a word a row selects decodes to that row's command, except that an F-format word with a NaN
operand and a read of an unmapped address are rejected for those causes. (R114.) -/
def Obligations.DecodeFollowsTheOpcodeTable : Prop :=
  opcodeRows.length = 37 ∧
  (∀ r ∈ opcodeRows, ∀ r' ∈ opcodeRows, ∀ w : CommandWord,
    r.selects w = true → r'.selects w = true → r = r') ∧
  (∀ (w : CommandWord) (i : Instr), decode w = .ok i →
    ∃ r ∈ opcodeRows, r.mnemonic = i.mnemonic ∧ r.selects w = true) ∧
  (∀ r ∈ opcodeRows, ∀ w : CommandWord, r.selects w = true →
    (∃ i, decode w = .ok i ∧ i.mnemonic = r.mnemonic) ∨
    (r.format = .F ∧ (F.mk (dataOf w)).isNaN = true ∧ decode w = .error .nanOperand) ∨
    (r.format = .R ∧ mapped (addrOf w) = false ∧ decode w = .error .badRead))

/-- For every DATA: formats N, O, C, K and B take exactly the bits the format table gives and nothing else of DATA;
RD ignores all 32; NOP accepts only zero; an F-format write takes all 32 bits as they are, rejecting a NaN. The
width of the frame count is a parameter (R8): with FRAMECOUNT_BITS = b the count is the low b bits, and all 32
bits of DATA when b is above 32, which is the model's own choice (log 13). (R111, R113, R115, R8.) -/
def Obligations.OperandsAreSlicesOfData : Prop :=
  (∀ d : Word,
    decode (writeWord 0x00#8 d) = .ok (.noteOn (d.extractLsb' 0 7) (d.extractLsb' 8 7)) ∧
    decode (writeWord 0x01#8 d) = .ok (.noteOff (d.extractLsb' 0 7)) ∧
    decode (writeWord 0x02#8 d) = .ok (.process ((d.extractLsb' 0 16).setWidth 32)) ∧
    decode (writeWord 0x09#8 d) = .ok (.setCtrl (d.getLsbD 0)) ∧
    decode (writeWord 0x0A#8 d) = .ok (.clrStatus (d.getLsbD 0)) ∧
    decode (writeWord 0x10#8 d) = .ok (.setOsc1Wave (WaveformKind.ofCode (d.extractLsb' 0 3))) ∧
    decode (writeWord 0x11#8 d) = .ok (.setOsc2Wave (WaveformKind.ofCode (d.extractLsb' 0 3))) ∧
    decode (writeWord 0x18#8 d) = .ok (.setWtTable (d.extractLsb' 0 3)) ∧
    decode (writeWord 0x27#8 d) = .ok (.setLfoWave (WaveformKind.ofCode (d.extractLsb' 0 3)))) ∧
  (∀ (bits : Nat) (d : Word), decodeIn bits (writeWord 0x02#8 d) = .ok (.process (BitVec.ofNat 32 (d.toNat % 2 ^ bits)))) ∧
  (∀ (a : BitVec 8) (d : Word), mapped a = true → decode (wordOf 0x02#8 0#16 a d) = .ok (.rd a)) ∧
  (∀ w : CommandWord, opcOf w = 0x00#8 → (decode w = .ok .nop ↔ w = 0#64)) ∧
  (∀ r ∈ opcodeRows, r.format = .F → ∀ w : CommandWord, r.selects w = true →
    if (F.mk (dataOf w)).isNaN then decode w = .error .nanOperand
    else ∃ i, decode w = .ok i ∧ encode i = w)

/-- Decoding answers a rejection if and only if one of the causes (a) to (f) holds; running a rejected word sets
CMDERR, appends one zero response word when OPC is 0x02 and RSV is zero (log 9 chooses this for a nonzero RSV),
and changes nothing else. (R115, R120, R352.) -/
def Obligations.RejectedWordsHaveTheSixCauses : Prop :=
  (∀ w : CommandWord, (∃ r, decode w = .error r) ↔
    (0x03 ≤ (opcOf w).toNat ∨ rsvOf w ≠ 0#16 ∨
      (opcOf w = 0x00#8 ∧ w.extractLsb' 0 56 ≠ 0#56) ∨
      (opcOf w = 0x01#8 ∧
        ((0x05 ≤ (addrOf w).toNat ∧ (addrOf w).toNat ≤ 0x07) ∨ (0x0B ≤ (addrOf w).toNat ∧ (addrOf w).toNat ≤ 0x0F) ∨
          0x2B ≤ (addrOf w).toNat)) ∨
      (opcOf w = 0x02#8 ∧ accessOf (addrOf w) = .unmapped) ∨
      ((∃ r ∈ opcodeRows, r.format = .F ∧ r.selects w = true) ∧ (F.mk (dataOf w)).isNaN = true))) ∧
  (∀ (w : CommandWord) (r : Reject) (s : State), decode w = .error r →
    runWord w s = .next { s with
      cmdErr := true
      responses := if opcOf w = 0x02#8 ∧ rsvOf w = 0#16 then s.responses ++ [0#32] else s.responses })

/-- The access of every 8-bit address is that of the map, exactly 52 addresses are mapped, and an access to an
unmapped address is rejected. (R88.) -/
def Obligations.RegisterAddressMap : Prop :=
  (∀ a : BitVec 8,
    (accessOf a = .writeOnly ↔ a.toNat ≤ 0x04) ∧
    (accessOf a = .readWrite ↔ a.toNat = 0x08 ∨ a.toNat = 0x09 ∨ (0x10 ≤ a.toNat ∧ a.toNat ≤ 0x2A)) ∧
    (accessOf a = .readClear ↔ a.toNat = 0x0A) ∧
    (accessOf a = .readOnly ↔ a.toNat = 0x0B ∨ (0x40 ≤ a.toNat ∧ a.toNat ≤ 0x4F)) ∧
    (mapped a = true ↔ accessOf a ≠ .unmapped)) ∧
  ((List.range 256).filter (fun n => mapped (BitVec.ofNat 8 n))).length = 52 ∧
  (∀ (a : BitVec 8) (d : Word), accessOf a = .unmapped →
    decode (wordOf 0x02#8 0#16 a d) = .error .badRead ∧ decode (writeWord a d) = .error .badWrite)

/-- The k-th byte of a command word is its bits 8k+7:8k and eight bytes read back to the word; the k-th of the four
bytes of a register value, a response word or a binary32 value is its bits 8k+7:8k and four bytes read back to
the value; a frame's bytes are those of L and then those of R; a stream's bytes are those of its words or frames
in order and no others (the form of a whole stream is the model's reading of the rule, log 21); the linear ROM
address has the table in bits 21:19, the table frame in 18:11 and the sample in 10:0. (R85, R82.) -/
def Obligations.BytesAreLittleEndian : Prop :=
  (∀ (w : CommandWord) (rest : List Byte),
    (∀ k < 8, (bytesOfWord w)[k]? = some (w.extractLsb' (8 * k) 8)) ∧
    wordOfBytes (bytesOfWord w ++ rest) = some (w, rest)) ∧
  (∀ (d : Word) (rest : List Byte),
    (bytesOfValue d).length = 4 ∧ (∀ k < 4, (bytesOfValue d)[k]? = some (d.extractLsb' (8 * k) 8)) ∧
    valueOfBytes (bytesOfValue d ++ rest) = some (d, rest)) ∧
  bytesOfResponses [] = [] ∧ bytesOfFrames [] = [] ∧
  (∀ (d : Word) (ds : List Word), bytesOfResponses (d :: ds) = bytesOfValue d ++ bytesOfResponses ds) ∧
  (∀ (fr : F × F) (frs : List (F × F)), bytesOfFrames (fr :: frs) = bytesOfFrame fr ++ bytesOfFrames frs) ∧
  (∀ fr : F × F, (bytesOfFrame fr).length = 8) ∧
  (∀ fr : F × F, ∀ k < 4, (bytesOfFrame fr)[k]? = some (fr.1.bits.extractLsb' (8 * k) 8) ∧
    (bytesOfFrame fr)[k + 4]? = some (fr.2.bits.extractLsb' (8 * k) 8)) ∧
  (∀ t f n : Nat, t < 8 → f < 256 → n < 2048 →
    romLinear t f n / 2 ^ 19 = t ∧ romLinear t f n / 2 ^ 11 % 2 ^ 8 = f ∧ romLinear t f n % 2 ^ 11 = n)

/-- When the word at the head of the port decodes to a command, the step is exec of that command at the state with
the word taken off; when it is rejected, the step is the rejection at that state; with an empty port the step
leaves the state as it is (the port is the model's own field, log 10). (R90, R120, R352, R365.) -/
def Obligations.StepRunsTheDecodedCommand : Prop :=
  (∀ (s : State) (w : CommandWord) (rest : List CommandWord) (i : Instr),
    s.port = w :: rest → decode w = .ok i → step s = exec i { s with port := rest }) ∧
  (∀ (s : State) (w : CommandWord) (rest : List CommandWord) (r : Reject),
    s.port = w :: rest → decode w = .error r → step s = .next (reject r { s with port := rest })) ∧
  (∀ s : State, s.port = [] → step s = .next s)

/-- For every command and every state exec answers a next state, and for every state the step answers a next state.
That next state is the effect of the parametric machine in the default configuration, whose format is binary32,
and the state after reset is its reset state (that exec and step run at the defaults is the model's choice, log
13); the step of the parametric machine, in every number format and every configuration, takes the next
presented word, runs its command or rejects it, and with nothing presented changes nothing (the port is the
model's own field, log 10; a NaN operand or an unmapped read given to exec directly answers the rejection, log
14). (R350, R356, R399, R365, R90, R8, R12.) -/
def Obligations.EveryStepAnswersANextState : Prop :=
  (∀ (i : Instr) (s : State), ∃ t, exec i s = .next t) ∧ (∀ s : State, ∃ t, step s = .next t) ∧
  (∀ (i : Instr) (s : State), exec i s = .next (effect hw i s)) ∧ (∀ s : State, step s = .next (stepIn hw s)) ∧
  State.reset = resetIn hw ∧ hw.num = binary32 ∧
  (∀ (α : Type) (c : ConfigOf α) (s : State.Of α),
    (s.port = [] → stepIn c s = s) ∧
    (∀ (w : CommandWord) (rest : List CommandWord), s.port = w :: rest →
      (∀ i : Instr, decodeIn c.frameCountBits w = .ok i → stepIn c s = effect c i { s with port := rest }) ∧
      (∀ r : Reject, decodeIn c.frameCountBits w = .error r → stepIn c s = reject r { s with port := rest })))

/-- The zero word decodes to NOP, NOP answers the same state, and every other word with OPC = 0x00 is rejected.
(R322.) -/
def Obligations.NopChangesNothing : Prop :=
  encode .nop = 0#64 ∧ decode 0#64 = .ok .nop ∧ (∀ s : State, exec .nop s = .next s) ∧
  (∀ w : CommandWord, opcOf w = 0x00#8 → w ≠ 0#64 → ∃ r, decode w = .error r)

/-- For every DATA and state: SET_CTRL sets LFO_RETRIG to DATA[0] and changes nothing else; CLR_STATUS with DATA[0]
= 1 clears CMDERR and changes nothing else, with DATA[0] = 0 it changes nothing; bits 31:1 are ignored, and
CTRL's bits 31:1 read zero. (R319, R320.) -/
def Obligations.ControlCommandsSetAndClearTheirBit : Prop :=
  (∀ d : Word, decode (writeWord 0x09#8 d) = .ok (.setCtrl (d.getLsbD 0)) ∧
    decode (writeWord 0x0A#8 d) = .ok (.clrStatus (d.getLsbD 0))) ∧
  (∀ (b : Bool) (s : State), exec (.setCtrl b) s = .next { s with lfoRetrig := b }) ∧
  (∀ s : State, exec (.clrStatus true) s = .next { s with cmdErr := false } ∧ exec (.clrStatus false) s = .next s) ∧
  (∀ s : State, (ctrlWord s).toNat = (if s.lfoRetrig then 1 else 0))

/-- SET_OSC1/2_WAVE, _DETUNE and _PW decode from their addresses; the register and all 16 voices' copies receive the
conformed value, nothing else changes; a word with a NaN operand only sets CMDERR, and exec given such an
operand directly, which no accepted word does, does the same by the model's own choice (log 14); detune matters
only to SuperSaw and the pulse width only to PWM. (R290, R115, R291, R292, R293, R294, R295, R296.) -/
def Obligations.OscillatorSetters : Prop :=
  IsIndexSetter 0x10#8 .setOsc1Wave WaveformKind.ofCode (fun p x => { p with osc1Wave := x }) (fun v x => { v with osc1 := { v.osc1 with kind := x } }) ∧
  IsIndexSetter 0x11#8 .setOsc2Wave WaveformKind.ofCode (fun p x => { p with osc2Wave := x }) (fun v x => { v with osc2 := { v.osc2 with kind := x } }) ∧
  IsRealSetter 0x12#8 .setOsc1Detune (fun _ => F.zero) (fun _ => F.one) (fun p x => { p with osc1Detune := x }) (fun v x => { v with osc1 := { v.osc1 with detune := x } }) ∧
  IsRealSetter 0x13#8 .setOsc2Detune (fun _ => F.zero) (fun _ => F.one) (fun p x => { p with osc2Detune := x }) (fun v x => { v with osc2 := { v.osc2 with detune := x } }) ∧
  IsRealSetter 0x14#8 .setOsc1Pw (fun _ => ⟨0x3D4CCCCD#32⟩) (fun _ => ⟨0x3F733333#32⟩) (fun p x => { p with osc1Pw := x }) (fun v x => { v with osc1 := { v.osc1 with pw := x } }) ∧
  IsRealSetter 0x15#8 .setOsc2Pw (fun _ => ⟨0x3D4CCCCD#32⟩) (fun _ => ⟨0x3F733333#32⟩) (fun p x => { p with osc2Pw := x }) (fun v x => { v with osc2 := { v.osc2 with pw := x } }) ∧
  (∀ (α : Type) (c : ConfigOf α) (n : Nat) (k : WaveformKind) (p dt pw pw' d d' : α),
    (k ≠ .superSaw → shape c n k p dt pw d = shape c n k p dt pw d') ∧
    (k ≠ .pwm → shape c n k p dt pw d = shape c n k p dt pw' d))

/-- The register and all 16 voices' copies receive the conformed value, nothing else changes; a word with a NaN
operand only sets CMDERR, and exec given such an operand directly, which no accepted word does, does the same by
the model's own choice (log 14); BIO_COH has the same effect as SET_WT_POS; and a mix amount of 0 gives the
first signal in value, 1 the second. (R290, R115, R297, R298, R299, R300, R276.) -/
def Obligations.MixAndWavetableSetters : Prop :=
  IsRealSetter 0x16#8 .setOscMix (fun _ => F.zero) (fun _ => F.one) (fun p x => { p with oscMix := x }) (fun v x => { v with oscMix := x }) ∧
  IsRealSetter 0x17#8 .setWtMix (fun _ => F.zero) (fun _ => F.one) (fun p x => { p with wtMix := x }) (fun v x => { v with wtMix := x }) ∧
  IsIndexSetter 0x18#8 .setWtTable id (fun p x => { p with wtTable := x }) (fun v x => { v with wt := { v.wt with table := x } }) ∧
  IsRealSetter 0x19#8 .setWtPos (fun _ => F.zero) (fun _ => F.one) (fun p x => { p with wtPos := x }) (fun v x => { v with wt := { v.wt with morph := x } }) ∧
  IsRealSetter 0x04#8 .bioCoh (fun _ => F.zero) (fun _ => F.one) (fun p x => { p with wtPos := x }) (fun v x => { v with wt := { v.wt with morph := x } }) ∧
  (∀ (val : F) (s : State), exec (.bioCoh val) s = exec (.setWtPos val) s) ∧
  (∀ a b : F, a.isFinite = true → b.isFinite = true →
    (crossFade binary32 a b F.zero).eqv a = true ∧ (crossFade binary32 a b F.one).eqv b = true)

/-- The register and all 16 voices' copies receive the clamped value (the cutoff goes to the base cutoff, not to the
filter's own cutoff), nothing else changes; a word with a NaN operand only sets CMDERR, and exec given such an
operand directly, which no accepted word does, does the same by the model's own choice (log 14). The drive's
upper bound is DRIVE_MAX, 1.0 by default; so in every configuration of the default format (R8). (R290, R115,
R301, R302, R303, R304.) -/
def Obligations.FilterSetters : Prop :=
  IsRealSetter 0x1A#8 .setFltCutoff (fun _ => ⟨0x41A00000#32⟩) (fun _ => ⟨0x469C4000#32⟩) (fun p x => { p with fltCutoff := x }) (fun v x => { v with baseCutoff := x }) ∧
  IsRealSetter 0x1B#8 .setFltRes (fun _ => F.zero) (fun _ => F.one) (fun p x => { p with fltRes := x }) (fun v x => { v with flt := { v.flt with res := x } }) ∧
  IsRealSetter 0x1C#8 .setFltEnvAmt (fun _ => F.zero) (fun _ => F.one) (fun p x => { p with fltEnvAmt := x }) (fun v x => { v with envAmt := x }) ∧
  IsRealSetter 0x1D#8 .setFltDrive (fun _ => F.zero) (fun c => c.driveMax) (fun p x => { p with fltDrive := x }) (fun v x => { v with flt := { v.flt with drive := x } }) ∧
  hw.driveMax = F.one

/-- The register and all 16 amplitude envelopes receive the clamped value; a time also recomputes that envelope's
three rates from its times and sample rate; stage, level and release snapshot and everything else are unchanged;
a word with a NaN operand only sets CMDERR, and exec given such an operand directly, which no accepted word
does, does the same by the model's own choice (log 14). The times' bounds are T_MIN and T_MAX, 0.1 and 10000 ms
by default; so in every configuration of the default format (R8). (R290, R115, R305, R306, R307, R308.) -/
def Obligations.AmplitudeEnvelopeSetters : Prop :=
  IsRealSetter 0x1E#8 .setAmpAttack (fun c => c.tMin) (fun c => c.tMax) (fun p x => { p with ampAttack := x }) (fun v x => { v with ampEnv := { v.ampEnv with attackMs := x, aRate := envRate binary32 x v.ampEnv.fs, dRate := envRate binary32 v.ampEnv.decayMs v.ampEnv.fs, rRate := envRate binary32 v.ampEnv.releaseMs v.ampEnv.fs } }) ∧
  IsRealSetter 0x1F#8 .setAmpDecay (fun c => c.tMin) (fun c => c.tMax) (fun p x => { p with ampDecay := x }) (fun v x => { v with ampEnv := { v.ampEnv with decayMs := x, aRate := envRate binary32 v.ampEnv.attackMs v.ampEnv.fs, dRate := envRate binary32 x v.ampEnv.fs, rRate := envRate binary32 v.ampEnv.releaseMs v.ampEnv.fs } }) ∧
  IsRealSetter 0x20#8 .setAmpSustain (fun _ => F.zero) (fun _ => F.one) (fun p x => { p with ampSustain := x }) (fun v x => { v with ampEnv := { v.ampEnv with sustain := x } }) ∧
  IsRealSetter 0x21#8 .setAmpRelease (fun c => c.tMin) (fun c => c.tMax) (fun p x => { p with ampRelease := x }) (fun v x => { v with ampEnv := { v.ampEnv with releaseMs := x, aRate := envRate binary32 v.ampEnv.attackMs v.ampEnv.fs, dRate := envRate binary32 v.ampEnv.decayMs v.ampEnv.fs, rRate := envRate binary32 x v.ampEnv.fs } }) ∧
  hw.tMin = ⟨0x3DCCCCCD#32⟩ ∧ hw.tMax = ⟨0x461C4000#32⟩

/-- The register and all 16 filter envelopes receive the clamped value; a time also recomputes that envelope's three
rates; stage, level and release snapshot and everything else are unchanged; a word with a NaN operand only sets
CMDERR, and exec given such an operand directly, which no accepted word does, does the same by the model's own
choice (log 14). (R290, R115, R309, R310, R311, R312.) -/
def Obligations.FilterEnvelopeSetters : Prop :=
  IsRealSetter 0x22#8 .setFenvAttack (fun c => c.tMin) (fun c => c.tMax) (fun p x => { p with fenvAttack := x }) (fun v x => { v with fltEnv := { v.fltEnv with attackMs := x, aRate := envRate binary32 x v.fltEnv.fs, dRate := envRate binary32 v.fltEnv.decayMs v.fltEnv.fs, rRate := envRate binary32 v.fltEnv.releaseMs v.fltEnv.fs } }) ∧
  IsRealSetter 0x23#8 .setFenvDecay (fun c => c.tMin) (fun c => c.tMax) (fun p x => { p with fenvDecay := x }) (fun v x => { v with fltEnv := { v.fltEnv with decayMs := x, aRate := envRate binary32 v.fltEnv.attackMs v.fltEnv.fs, dRate := envRate binary32 x v.fltEnv.fs, rRate := envRate binary32 v.fltEnv.releaseMs v.fltEnv.fs } }) ∧
  IsRealSetter 0x24#8 .setFenvSustain (fun _ => F.zero) (fun _ => F.one) (fun p x => { p with fenvSustain := x }) (fun v x => { v with fltEnv := { v.fltEnv with sustain := x } }) ∧
  IsRealSetter 0x25#8 .setFenvRelease (fun c => c.tMin) (fun c => c.tMax) (fun p x => { p with fenvRelease := x }) (fun v x => { v with fltEnv := { v.fltEnv with releaseMs := x, aRate := envRate binary32 v.fltEnv.attackMs v.fltEnv.fs, dRate := envRate binary32 v.fltEnv.decayMs v.fltEnv.fs, rRate := envRate binary32 x v.fltEnv.fs } }) ∧
  hw.tMin = ⟨0x3DCCCCCD#32⟩ ∧ hw.tMax = ⟨0x461C4000#32⟩

/-- The register and all 16 voices' copies (none for the master volume) receive the conformed value, nothing else
changes; a word with a NaN operand only sets CMDERR, and exec given such an operand directly, which no accepted
word does, does the same by the model's own choice (log 14). (R290, R115, R313, R314, R315, R316, R317.) -/
def Obligations.LfoAndVolumeSetters : Prop :=
  IsRealSetter 0x26#8 .setLfoRate (fun _ => ⟨0x3C23D70A#32⟩) (fun _ => ⟨0x42480000#32⟩) (fun p x => { p with lfoRate := x }) (fun v x => { v with lfo := { v.lfo with rate := x } }) ∧
  IsIndexSetter 0x27#8 .setLfoWave WaveformKind.ofCode (fun p x => { p with lfoWave := x }) (fun v x => { v with lfo := { v.lfo with kind := x } }) ∧
  IsRealSetter 0x28#8 .setLfoToFilter (fun _ => F.zero) (fun _ => F.one) (fun p x => { p with lfoToFilter := x }) (fun v x => { v with lfoToFlt := x }) ∧
  IsRealSetter 0x29#8 .setLfoToPitch (fun _ => F.zero) (fun _ => F.one) (fun p x => { p with lfoToPitch := x }) (fun v x => { v with lfoToPitch := x }) ∧
  IsRealSetter 0x2A#8 .setMasterVol (fun _ => F.zero) (fun _ => F.one) (fun p x => { p with masterVol := x }) (fun v _ => v)

/-- SAMPLE_RATE and the fs of both oscillators, the wavetable oscillator, the filter, the LFO and both envelopes of
every voice receive the rate clamped to [8000, 192000]; the six envelope rates are recomputed; nothing else
changes; a word with a NaN operand only sets CMDERR, and exec given such an operand directly, which no accepted
word does, does the same by the model's own choice (log 14); and in every configuration of the default format
the same holds with the bounds FS_MIN and FS_MAX (R8). (R318, R115.) -/
def Obligations.SampleRateReachesEveryComponent : Prop :=
  let given (x : F) (v : Voice) : Voice :=
    { v with
      osc1 := { v.osc1 with fs := x }
      osc2 := { v.osc2 with fs := x }
      wt := { v.wt with fs := x }
      flt := { v.flt with fs := x }
      lfo := { v.lfo with fs := x }
      ampEnv := { v.ampEnv with fs := x, aRate := envRate binary32 v.ampEnv.attackMs x, dRate := envRate binary32 v.ampEnv.decayMs x,
                                rRate := envRate binary32 v.ampEnv.releaseMs x }
      fltEnv := { v.fltEnv with fs := x, aRate := envRate binary32 v.fltEnv.attackMs x, dRate := envRate binary32 v.fltEnv.decayMs x,
                                rRate := envRate binary32 v.fltEnv.releaseMs x } }
  (∀ d : Word, decode (writeWord 0x08#8 d) =
    if (F.mk d).isNaN then .error .nanOperand else .ok (.setSampleRate ⟨d⟩)) ∧
  (∀ (val : F) (s : State), val.isNaN = false →
    ∃ t, exec (.setSampleRate val) s = .next t ∧
      let x := val.clamp ⟨0x45FA0000#32⟩ ⟨0x483B8000#32⟩
      t = { s with sampleRate := x, voices := t.voices } ∧ ∀ j : Fin 16, t.voices[j] = given x s.voices[j]) ∧
  (∀ (val : F) (s : State), val.isNaN = true → exec (.setSampleRate val) s = .next { s with cmdErr := true }) ∧
  (∀ (d : Word) (s : State), (F.mk d).isNaN = true → runWord (writeWord 0x08#8 d) s = .next { s with cmdErr := true }) ∧
  (∀ c : Config, c.num = binary32 → ∀ (val : F) (s : State),
    let t := effect c (.setSampleRate val) s
    let x := val.clamp c.fsMin c.fsMax
    (val.isNaN = false →
      t = { s with sampleRate := x, voices := t.voices } ∧ ∀ j : Fin 16, t.voices[j] = given x s.voices[j]) ∧
    (val.isNaN = true → t = { s with cmdErr := true }))

/-- For an operand that is no NaN, FLT_CUTOFF and every voice's base cutoff receive clamp(200 + clamp(val, 0, 1) *
7800, 20, 20000) and nothing else changes; a word with a NaN operand only sets CMDERR, and exec given such an
operand directly, which no accepted word does, does the same by the model's own choice (log 14); the operand 0.5
gives 4100.0; the result always lies in [200, 8000]; and in every configuration of the default format the
register and all 16 voices receive the map BIO_CUT_BASE + h * BIO_CUT_SPAN, clamped to [20, 20000], and nothing
else changes (R8). (R275, R115.) -/
def Obligations.BioHrvSetsTheCutoff : Prop :=
  (∀ d : Word, decode (writeWord 0x03#8 d) =
    if (F.mk d).isNaN then .error .nanOperand else .ok (.bioHrv ⟨d⟩)) ∧
  (∀ (val : F) (s : State), val.isNaN = false →
    ∃ t, exec (.bioHrv val) s = .next t ∧
      let h := val.clamp F.zero F.one
      let x := ((⟨0x43480000#32⟩ : F).add (h.mul ⟨0x45F3C000#32⟩)).clamp ⟨0x41A00000#32⟩ ⟨0x469C4000#32⟩
      t = { s with params := { s.params with fltCutoff := x }, voices := t.voices } ∧
      InRange ⟨0x43480000#32⟩ ⟨0x45FA0000#32⟩ x ∧
      (val = F.half → x = ⟨0x45802000#32⟩) ∧
      ∀ j : Fin 16, t.voices[j] = { s.voices[j] with baseCutoff := x }) ∧
  (∀ (val : F) (s : State), val.isNaN = true → exec (.bioHrv val) s = .next { s with cmdErr := true }) ∧
  (∀ (d : Word) (s : State), (F.mk d).isNaN = true → runWord (writeWord 0x03#8 d) s = .next { s with cmdErr := true }) ∧
  (∀ c : Config, c.num = binary32 → ∀ (val : F) (s : State),
    let t := effect c (.bioHrv val) s
    let x := (c.bioCutBase.add ((val.clamp F.zero F.one).mul c.bioCutSpan)).clamp ⟨0x41A00000#32⟩ ⟨0x469C4000#32⟩
    (val.isNaN = false →
      t = { s with params := { s.params with fltCutoff := x }, voices := t.voices } ∧
      ∀ j : Fin 16, t.voices[j] = { s.voices[j] with baseCutoff := x }) ∧
    (val.isNaN = true → t = { s with cmdErr := true }))

/-- For a mapped address RD appends the register's value to the response stream and changes nothing else, whatever
DATA is; for an unmapped address the command is rejected, responds zero and sets CMDERR. (R321.) -/
def Obligations.ReadRespondsAndChangesNothingElse : Prop :=
  (∀ (a : BitVec 8) (d : Word), decode (wordOf 0x02#8 0#16 a d) =
    if mapped a then .ok (.rd a) else .error .badRead) ∧
  (∀ (a : BitVec 8) (s : State), mapped a = true →
    exec (.rd a) s = .next { s with responses := s.responses ++ [regRead a s] }) ∧
  (∀ (a : BitVec 8) (d : Word) (s : State), mapped a = false →
    runWord (wordOf 0x02#8 0#16 a d) s = .next { s with cmdErr := true, responses := s.responses ++ [0#32] }) ∧
  (∀ s : State, s.params.fltCutoff = ⟨0x44FA0000#32⟩ → regRead 0x1A#8 s = 0x44FA0000#32)

/-- Command addresses read zero; SAMPLE_RATE and the F registers read their stored bits; CTRL, STATUS and the K
registers read their value with zeros above; ACTIVE bit v is Active(v); VOICE_STAT[v] is NOTE | VEL << 8 |
ASTAGE << 16 | FSTAGE << 20; any other address reads zero, and the command is rejected (exec of RD at an
unmapped address, which no accepted word decodes to, is that rejection by the model's own choice, log 14).
(R323.) -/
def Obligations.RegisterReadLayout : Prop :=
  ∀ s : State,
    (∀ a : BitVec 8, a.toNat ≤ 0x04 → regRead a s = 0#32) ∧
    regRead 0x08#8 s = s.sampleRate.bits ∧
    (regRead 0x09#8 s).toNat = (if s.lfoRetrig then 1 else 0) ∧
    (regRead 0x0A#8 s).toNat = (if s.cmdErr then 1 else 0) ∧
    (∀ v : Fin 16, (regRead 0x0B#8 s).getLsbD v = active s v) ∧ (regRead 0x0B#8 s).toNat < 2 ^ 16 ∧
    (regRead 0x10#8 s).toNat = s.params.osc1Wave.code.toNat ∧ (regRead 0x11#8 s).toNat = s.params.osc2Wave.code.toNat ∧
    regRead 0x12#8 s = s.params.osc1Detune.bits ∧ regRead 0x13#8 s = s.params.osc2Detune.bits ∧
    regRead 0x14#8 s = s.params.osc1Pw.bits ∧ regRead 0x15#8 s = s.params.osc2Pw.bits ∧
    regRead 0x16#8 s = s.params.oscMix.bits ∧ regRead 0x17#8 s = s.params.wtMix.bits ∧
    (regRead 0x18#8 s).toNat = s.params.wtTable.toNat ∧ regRead 0x19#8 s = s.params.wtPos.bits ∧
    regRead 0x1A#8 s = s.params.fltCutoff.bits ∧ regRead 0x1B#8 s = s.params.fltRes.bits ∧
    regRead 0x1C#8 s = s.params.fltEnvAmt.bits ∧ regRead 0x1D#8 s = s.params.fltDrive.bits ∧
    regRead 0x1E#8 s = s.params.ampAttack.bits ∧ regRead 0x1F#8 s = s.params.ampDecay.bits ∧
    regRead 0x20#8 s = s.params.ampSustain.bits ∧ regRead 0x21#8 s = s.params.ampRelease.bits ∧
    regRead 0x22#8 s = s.params.fenvAttack.bits ∧ regRead 0x23#8 s = s.params.fenvDecay.bits ∧
    regRead 0x24#8 s = s.params.fenvSustain.bits ∧ regRead 0x25#8 s = s.params.fenvRelease.bits ∧
    regRead 0x26#8 s = s.params.lfoRate.bits ∧ (regRead 0x27#8 s).toNat = s.params.lfoWave.code.toNat ∧
    regRead 0x28#8 s = s.params.lfoToFilter.bits ∧ regRead 0x29#8 s = s.params.lfoToPitch.bits ∧
    regRead 0x2A#8 s = s.params.masterVol.bits ∧
    (∀ v : Fin 16, (regRead (BitVec.ofNat 8 (0x40 + v.val)) s).toNat =
      s.voices[v].note.toNat + s.voices[v].velRaw.toNat * 2 ^ 8 + s.voices[v].ampEnv.stage.code.toNat * 2 ^ 16 +
        s.voices[v].fltEnv.stage.code.toNat * 2 ^ 20) ∧
    (∀ a : BitVec 8, accessOf a = .unmapped → regRead a s = 0#32 ∧
      exec (.rd a) s = .next { s with cmdErr := true, responses := s.responses ++ [0#32] })

/-- For each of the 27 parameter setters, BIO_COH and SET_SAMPLE_RATE: after a write of any value that is no NaN, a
read of the register's address returns the value conformed to its domain, and a read of every other address,
VOICE_STAT and ACTIVE included, returns what it returned before: no register aliases another. (R32, R87, R290.) -/
def Obligations.ReadReturnsTheClampedValueWritten : Prop :=
  ReadsBackReal 0x08#8 .setSampleRate hw.fsMin hw.fsMax ∧
  ReadsBackReal 0x19#8 .bioCoh F.zero F.one ∧
  ReadsBackIndex 0x10#8 .setOsc1Wave WaveformKind.code ∧
  ReadsBackIndex 0x11#8 .setOsc2Wave WaveformKind.code ∧
  ReadsBackReal 0x12#8 .setOsc1Detune F.zero F.one ∧
  ReadsBackReal 0x13#8 .setOsc2Detune F.zero F.one ∧
  ReadsBackReal 0x14#8 .setOsc1Pw Config.pwMin Config.pwMax ∧
  ReadsBackReal 0x15#8 .setOsc2Pw Config.pwMin Config.pwMax ∧
  ReadsBackReal 0x16#8 .setOscMix F.zero F.one ∧
  ReadsBackReal 0x17#8 .setWtMix F.zero F.one ∧
  ReadsBackIndex 0x18#8 .setWtTable id ∧
  ReadsBackReal 0x19#8 .setWtPos F.zero F.one ∧
  ReadsBackReal 0x1A#8 .setFltCutoff Config.cutMin Config.cutMax ∧
  ReadsBackReal 0x1B#8 .setFltRes F.zero F.one ∧
  ReadsBackReal 0x1C#8 .setFltEnvAmt F.zero F.one ∧
  ReadsBackReal 0x1D#8 .setFltDrive F.zero hw.driveMax ∧
  ReadsBackReal 0x1E#8 .setAmpAttack hw.tMin hw.tMax ∧
  ReadsBackReal 0x1F#8 .setAmpDecay hw.tMin hw.tMax ∧
  ReadsBackReal 0x20#8 .setAmpSustain F.zero F.one ∧
  ReadsBackReal 0x21#8 .setAmpRelease hw.tMin hw.tMax ∧
  ReadsBackReal 0x22#8 .setFenvAttack hw.tMin hw.tMax ∧
  ReadsBackReal 0x23#8 .setFenvDecay hw.tMin hw.tMax ∧
  ReadsBackReal 0x24#8 .setFenvSustain F.zero F.one ∧
  ReadsBackReal 0x25#8 .setFenvRelease hw.tMin hw.tMax ∧
  ReadsBackReal 0x26#8 .setLfoRate Config.lfoMin Config.lfoMax ∧
  ReadsBackIndex 0x27#8 .setLfoWave WaveformKind.code ∧
  ReadsBackReal 0x28#8 .setLfoToFilter F.zero F.one ∧
  ReadsBackReal 0x29#8 .setLfoToPitch F.zero F.one ∧
  ReadsBackReal 0x2A#8 .setMasterVol F.zero F.one

/-- In every state that meets the engine invariant, each of the 27 parameter setters, SET_SAMPLE_RATE and SET_CTRL
with the value the register holds answers the same state. (R290, R44, R46, R52.) -/
def Obligations.WritingTheHeldValueChangesNothing : Prop :=
  ∀ s : State, EngineInv s →
    exec (.setOsc1Wave s.params.osc1Wave) s = .next s ∧
    exec (.setOsc2Wave s.params.osc2Wave) s = .next s ∧
    exec (.setOsc1Detune s.params.osc1Detune) s = .next s ∧
    exec (.setOsc2Detune s.params.osc2Detune) s = .next s ∧
    exec (.setOsc1Pw s.params.osc1Pw) s = .next s ∧
    exec (.setOsc2Pw s.params.osc2Pw) s = .next s ∧
    exec (.setOscMix s.params.oscMix) s = .next s ∧
    exec (.setWtMix s.params.wtMix) s = .next s ∧
    exec (.setWtTable s.params.wtTable) s = .next s ∧
    exec (.setWtPos s.params.wtPos) s = .next s ∧
    exec (.setFltCutoff s.params.fltCutoff) s = .next s ∧
    exec (.setFltRes s.params.fltRes) s = .next s ∧
    exec (.setFltEnvAmt s.params.fltEnvAmt) s = .next s ∧
    exec (.setFltDrive s.params.fltDrive) s = .next s ∧
    exec (.setAmpAttack s.params.ampAttack) s = .next s ∧
    exec (.setAmpDecay s.params.ampDecay) s = .next s ∧
    exec (.setAmpSustain s.params.ampSustain) s = .next s ∧
    exec (.setAmpRelease s.params.ampRelease) s = .next s ∧
    exec (.setFenvAttack s.params.fenvAttack) s = .next s ∧
    exec (.setFenvDecay s.params.fenvDecay) s = .next s ∧
    exec (.setFenvSustain s.params.fenvSustain) s = .next s ∧
    exec (.setFenvRelease s.params.fenvRelease) s = .next s ∧
    exec (.setLfoRate s.params.lfoRate) s = .next s ∧
    exec (.setLfoWave s.params.lfoWave) s = .next s ∧
    exec (.setLfoToFilter s.params.lfoToFilter) s = .next s ∧
    exec (.setLfoToPitch s.params.lfoToPitch) s = .next s ∧
    exec (.setMasterVol s.params.masterVol) s = .next s ∧
    exec (.setSampleRate s.sampleRate) s = .next s ∧
    exec (.setCtrl s.lfoRetrig) s = .next s

/-- For every command other than those three and every voice, the note, velocities, base frequency, four phases,
transient fields, filter stage outputs and both envelopes' stage, level and release snapshot are unchanged, and
so are both the frame stream and the draw count. (R290, R318, R319, R320, R321.) -/
def Obligations.OnlyNotesAndProcessTouchTheSound : Prop :=
  ∀ (i : Instr) (s t : State), exec i s = .next t →
    (∀ n v, i ≠ .noteOn n v) → (∀ n, i ≠ .noteOff n) → (∀ k, i ≠ .process k) →
      (∀ j : Fin 16, soundState t.voices[j] = soundState s.voices[j]) ∧ t.frames = s.frames ∧ t.draws = s.draws

/-- In a step that takes a word: if the word is rejected, CMDERR is 1 after it; if it is accepted and is not
CLR_STATUS with bit 0 set, CMDERR is as before; if it is that command, CMDERR is 0. (R352, R357.) -/
def Obligations.CommandErrorIsSticky : Prop :=
  ∀ (s t : State) (w : CommandWord) (rest : List CommandWord), s.port = w :: rest → step s = .next t →
    t.cmdErr = match decode w with
      | .error _ => true
      | .ok (.clrStatus true) => false
      | .ok _ => s.cmdErr

/-- Every step leaves the frames and responses emitted so far as a prefix; exec of a command that is no PROCESS
emits no frame, of one that is no RD gives no response, and no command touches the presented words. (R47, R83,
R90.) -/
def Obligations.StreamsOnlyGrow : Prop :=
  (∀ s t : State, step s = .next t → s.frames <+: t.frames ∧ s.responses <+: t.responses) ∧
  (∀ (i : Instr) (s t : State), exec i s = .next t →
    t.port = s.port ∧ ((∀ k, i ≠ .process k) → t.frames = s.frames) ∧
      ((∀ a, i ≠ .rd a) → t.responses = s.responses))

/-- There is a voice i, the least inactive one or, when none is inactive, voice 0, that becomes active and holds the
note; every other voice and everything outside the voices is unchanged. (R266, R267, R268, R37.) -/
def Obligations.NoteOnTakesTheFirstInactiveVoice : Prop :=
  ∀ (n vel : BitVec 7) (s : State),
    ∃ (t : State) (i : Fin 16), exec (.noteOn n vel) s = .next t ∧ t = { s with voices := t.voices } ∧
      ((active s i = false ∧ ∀ j : Fin 16, j < i → active s j = true) ∨
        ((∀ j : Fin 16, active s j = true) ∧ i = 0)) ∧
      active t i = true ∧ t.voices[i].note = n ∧ (∀ j : Fin 16, j ≠ i → t.voices[j] = s.voices[j])

/-- The chosen voice gets the note, raw velocity, velocity / 127 and base frequency 440 * fexp2((note - 69) / 12);
both oscillator phases and the wavetable phase become 0, the LFO phase only if LFO_RETRIG is 1; both envelopes
go to Attack at level 0; the release snapshots and filter stages stay as they are; the transient frequencies and
cutoff stay too; when the registers lie in their domains (R52) every parameter copy of the voice equals its
global register and its envelope rates are current, whatever they were before; VOICE_STAT reads the note, the
velocity and Attack twice, and the voice becomes active. (R246, R249, R269.) -/
def Obligations.NoteOnStartsTheVoice : Prop :=
  ∀ (n vel : BitVec 7) (s : State),
    ∃ t, exec (.noteOn n vel) s = .next t ∧
      let u := s.voices[allocate s]
      let v := t.voices[allocate s]
      v.note = n ∧ v.velRaw = vel ∧ v.vel = (F.itof (vel.toNat : Int)).div ⟨0x42FE0000#32⟩ ∧
      v.baseFreq = (⟨0x43DC0000#32⟩ : F).mul (hw.fexp2 ((F.itof ((n.toNat : Int) - 69)).div ⟨0x41400000#32⟩)) ∧
      v.osc1.phase = F.zero ∧ v.osc2.phase = F.zero ∧ v.wt.phase = F.zero ∧
      v.lfo.phase = (if s.lfoRetrig then F.zero else u.lfo.phase) ∧
      v.ampEnv.stage = .attack ∧ v.ampEnv.level = F.zero ∧ v.ampEnv.relStart = u.ampEnv.relStart ∧
      v.fltEnv.stage = .attack ∧ v.fltEnv.level = F.zero ∧ v.fltEnv.relStart = u.fltEnv.relStart ∧
      v.flt.s0 = u.flt.s0 ∧ v.flt.s1 = u.flt.s1 ∧ v.flt.s2 = u.flt.s2 ∧ v.flt.s3 = u.flt.s3 ∧
      v.osc1.freq = u.osc1.freq ∧ v.osc2.freq = u.osc2.freq ∧ v.wt.freq = u.wt.freq ∧ v.flt.cutoff = u.flt.cutoff ∧
      (InDomain s → VoiceCopies s.params s.sampleRate v) ∧
      (regRead (BitVec.ofNat 8 (0x40 + (allocate s).val)) t).toNat = n.toNat + vel.toNat * 2 ^ 8 + 0x110000 ∧
      (∀ j : Fin 16, active t j = (decide (j = allocate s) || active s j)) ∧ t = { s with voices := t.voices }

/-- When the registers lie in their domains, the voice after Broadcast has every parameter copy equal to its global
and its rates current, its sound state unchanged; and a voice whose copies are already equal is unchanged.
(R269, R44, R46.) -/
def Obligations.BroadcastGivesEveryGlobalParameter : Prop :=
  ∀ (s : State) (v : Voice), InDomain s →
    VoiceCopies s.params s.sampleRate (broadcast hw s.params s.sampleRate v) ∧
    soundState (broadcast hw s.params s.sampleRate v) = soundState v ∧
    (VoiceCopies s.params s.sampleRate v → broadcast hw s.params s.sampleRate v = v)

/-- Every active voice whose note equals the operand has each envelope that is not Idle put in Release with its
snapshot taken at its current level, and nothing else of it changes; every other voice and everything outside
the voices is unchanged; no Active predicate changes. (R270, R213, R250.) -/
def Obligations.NoteOffReleasesEveryMatchingVoice : Prop :=
  ∀ (n : BitVec 7) (s : State),
    ∃ t, exec (.noteOff n) s = .next t ∧ t = { s with voices := t.voices } ∧
      ∀ j : Fin 16, active t j = active s j ∧
        (active s j = true ∧ s.voices[j].note = n →
          t.voices[j] =
            let v := s.voices[j]
            { v with
              ampEnv := { v.ampEnv with relStart := v.ampEnv.level, stage := .release }
              fltEnv := if v.fltEnv.stage = .idle then v.fltEnv
                else { v.fltEnv with relStart := v.fltEnv.level, stage := .release } }) ∧
        (¬ (active s j = true ∧ s.voices[j].note = n) → t.voices[j] = s.voices[j])

/-- After PROCESS count the frame stream is the old one followed by exactly count frames, each with equal channels;
registers, CMDERR, responses and presented words are unchanged; PROCESS 0 changes nothing. (R271, R273, R396.) -/
def Obligations.ProcessEmitsCountEqualPairs : Prop :=
  (∀ (k : BitVec 32) (s : State),
    ∃ (t : State) (new : List (F × F)), exec (.process k) s = .next t ∧
      t = { s with voices := t.voices, frames := s.frames ++ new, draws := t.draws } ∧
      new.length = k.toNat ∧ ∀ fr ∈ new, fr.1 = fr.2) ∧
  (∀ s : State, exec (.process 0#32) s = .next s)

/-- PROCESS 1 replaces each active voice by its VoiceProcess result, reached with the draw count left by the active
voices before it, and leaves each inactive voice as it is; the one frame emitted has on both channels the left-
to-right sum from +0.0 of the active voices' samples, ascending, times MASTER_VOL (the draw count that selects
the free noise samples is the model's own field, log 6). (R272, R251, R37.) -/
def Obligations.FrameIsTheSumOfTheActiveVoices : Prop :=
  ∀ s : State,
    ∃ t, exec (.process 1#32) s = .next t ∧
      (∀ j : Fin 16, t.voices[j] =
        if active s j then (voiceProcess hw (drawsBefore s j) s.voices[j]).2.1 else s.voices[j]) ∧
      (let samples := (voiceIndices.filter (active s)).map
          (fun j => (voiceProcess hw (drawsBefore s j) s.voices[j]).1)
        let out := (samples.foldl F.add F.zero).mul s.params.masterVol
        t.frames = s.frames ++ [(out, out)]) ∧
      t.draws = s.draws + ((voiceIndices.filter (active s)).map (fun j => voiceDraws s.voices[j])).sum

/-- For all m and n whose sum is at most 65535, executing PROCESS m and then PROCESS n gives the state of PROCESS (m
+ n). (R271, R396, R35.) -/
def Obligations.ProcessSplitsIntoTwo : Prop :=
  ∀ (m n : Nat) (s : State), m + n < 2 ^ 16 →
    ∃ u t, exec (.process (BitVec.ofNat 32 m)) s = .next u ∧ exec (.process (BitVec.ofNat 32 n)) u = .next t ∧
      exec (.process (BitVec.ofNat 32 (m + n))) s = .next t

/-- After PROCESS count a voice inactive before it is unchanged in every field; and when no voice is active every
frame is (0.0 * MASTER_VOL, same) and nothing but the frame stream changes. (R272, R365.) -/
def Obligations.InactiveVoicesAreFrozen : Prop :=
  (∀ (k : BitVec 32) (s : State),
    ∃ t, exec (.process k) s = .next t ∧ ∀ j : Fin 16, active s j = false → t.voices[j] = s.voices[j]) ∧
  (∀ (k : BitVec 32) (s : State), (∀ j : Fin 16, active s j = false) →
    let z := F.zero.mul s.params.masterVol
    exec (.process k) s = .next { s with frames := s.frames ++ List.replicate k.toNat (z, z) })

/-- If a voice is active before a command and not after, the command is a PROCESS; if it is inactive before and
active after, the command is a NOTE_ON and the voice is the one it allocates. (R274, R37, R266.) -/
def Obligations.OnlyProcessDeactivatesAVoice : Prop :=
  ∀ (i : Instr) (s t : State) (v : Fin 16), exec i s = .next t →
    (active s v = true → active t v = false → ∃ k, i = .process k) ∧
    (active s v = false → active t v = true → ∃ n vel, i = .noteOn n vel ∧ v = allocate s)

/-- Take two states in which no voice has a Noise waveform and in which voice j is the same; after PROCESS with the
same count voice j is the same in both, whatever the other voices, the registers and the draw counts are. (R251,
R272.) -/
def Obligations.VoicesDoNotInteract : Prop :=
  ∀ (k : BitVec 32) (j : Fin 16) (s₁ s₂ : State),
    (∀ v : Fin 16, NoNoise s₁.voices[v] ∧ NoNoise s₂.voices[v]) → s₁.voices[j] = s₂.voices[j] →
      ∃ t₁ t₂, exec (.process k) s₁ = .next t₁ ∧ exec (.process k) s₂ = .next t₂ ∧ t₁.voices[j] = t₂.voices[j]

/-- process() keeps the stage or goes Attack to Decay, Decay to Sustain or Release to Idle; noteOn() goes to Attack
at level 0 and keeps the snapshot; noteOff() goes from any stage but Idle to Release with the snapshot at the
current level, and in Idle does nothing. (R210, R212, R213, R220.) -/
def Obligations.EnvelopeTransitionsAreTheListedOnes : Prop :=
  ∀ e : Env,
    ((envNext binary32 e).stage = e.stage ∨ (e.stage = .attack ∧ (envNext binary32 e).stage = .decay) ∨
      (e.stage = .decay ∧ (envNext binary32 e).stage = .sustain) ∨ (e.stage = .release ∧ (envNext binary32 e).stage = .idle)) ∧
    envNoteOn binary32 e = { e with stage := .attack, level := F.zero } ∧
    (e.stage ≠ .idle → envNoteOff e = { e with stage := .release, relStart := e.level }) ∧
    (e.stage = .idle → envNoteOff e = e ∧ envNext binary32 e = e) ∧
    (envIsActive e = true ↔ e.stage ≠ .idle)

/-- Attack adds aRate and goes to Decay at exactly 1.0 when the sum reaches 1; Decay subtracts dRate and goes to
Sustain at exactly the target when it is reached; Sustain re-reads the target; Release subtracts rRate *
relStart and goes to Idle at exactly 0.0 when it reaches 0; nothing else changes and the returned value is the
new level. (R215, R216, R217, R218.) -/
def Obligations.EnvelopeArms : Prop :=
  ∀ e : Env, (envProcess binary32 e).1 = (envProcess binary32 e).2.level ∧
    (e.stage = .attack → (envProcess binary32 e).2 = let l := e.level.add e.aRate
      if F.one.le l then { e with level := F.one, stage := .decay } else { e with level := l }) ∧
    (e.stage = .decay → (envProcess binary32 e).2 = let l := e.level.sub e.dRate
      if l.le e.sustain then { e with level := e.sustain, stage := .sustain } else { e with level := l }) ∧
    (e.stage = .sustain → (envProcess binary32 e).2 = { e with level := e.sustain }) ∧
    (e.stage = .release → (envProcess binary32 e).2 = let l := e.level.sub (e.rRate.mul e.relStart)
      if l.le F.zero then { e with level := F.zero, stage := .idle } else { e with level := l })

/-- The cached rate of a time and a sample rate is 1 / ((ms * 0.001) * fs), each operation rounded. For every time
in [0.1, 10000] ms and every sample rate in [8000, 192000] it is finite, greater than 0 and at most 1.25; 10 ms
at 48000 Hz gives 0x3B088888. (R211, R221.) -/
def Obligations.EnvelopeRatesArePositive : Prop :=
  (∀ ms fs : F, envRate binary32 ms fs = F.one.div ((ms.mul ⟨0x3A83126F#32⟩).mul fs)) ∧
  (∀ ms fs : F, InRange hw.tMin hw.tMax ms → InRange hw.fsMin hw.fsMax fs →
    (envRate binary32 ms fs).isFinite = true ∧ F.zero.lt (envRate binary32 ms fs) = true ∧ (envRate binary32 ms fs).le ⟨0x3FA00000#32⟩ = true) ∧
  envRate binary32 ⟨0x41200000#32⟩ hw.fsReset = ⟨0x3B088888#32⟩

/-- For an envelope whose level and snapshot lie in [0, 1], whose target lies in [0, 1] and whose rates are finite
and not negative, one sample keeps the level in [0, 1] and level 0 in Idle; Attack does not lower the level;
Decay does not raise it when the target is not above it; Release does not raise it. (R222, R42.) -/
def Obligations.EnvelopeLevelStaysInTheUnitInterval : Prop :=
  ∀ e : Env, EnvSound e → InUnit e.sustain →
    (∀ r ∈ [e.aRate, e.dRate, e.rRate], r.isFinite = true ∧ F.zero.le r = true) →
    EnvSound (envNext binary32 e) ∧
    (e.stage = .attack → e.level.le (envNext binary32 e).level = true) ∧
    (e.stage = .decay → e.sustain.le e.level = true → (envNext binary32 e).level.le e.level = true) ∧
    (e.stage = .release → (envNext binary32 e).level.le e.level = true)

/-- For a phase in [0, 1) and an increment in [0, 0.5] the advanced phase lies in [0, 1); for a sample rate in
[8000, 192000] and a frequency that is no NaN the clamped frequency divided by the sample rate lies in [0, 0.5],
and so does an LFO rate in [0.01, 50]. (R157, R180, R234, R142.) -/
def Obligations.PhaseStaysInTheUnitInterval : Prop :=
  (∀ p dt : F, IsPhase p → InRange F.zero F.half dt → IsPhase (advance binary32 p dt)) ∧
  (∀ fs f : F, InRange hw.fsMin hw.fsMax fs → f.isNaN = false → InRange F.zero F.half ((clampFreq binary32 fs f).div fs)) ∧
  (∀ fs r : F, InRange hw.fsMin hw.fsMax fs → InRange Config.lfoMin Config.lfoMax r → InRange F.zero F.half (r.div fs))

/-- For every phase in [0, 1) each shape is the table's formula, and with SIN_BOUND and bounded draws every value
lies in [-1, 1]; Noise takes one draw and no other kind takes any. (R235.) -/
def Obligations.LfoShapesLieBetweenMinusOneAndOne : Prop :=
  (∀ (c : Config) (n : Nat) (p : F), c.num = binary32 →
    naiveShape c n .sine p = c.fsin ((⟨0x40C90FDB#32⟩ : F).mul p) ∧
    naiveShape c n .triangle p = ((⟨0x40800000#32⟩ : F).mul (p.sub F.half).abs).sub F.one ∧
    naiveShape c n .sawtooth p = ((⟨0x40000000#32⟩ : F).mul p).sub F.one ∧
    naiveShape c n .square p = (if p.lt F.half then F.one else F.minusOne) ∧
    naiveShape c n .pulse25 p = (if p.lt F.quarter then F.one else F.minusOne) ∧
    naiveShape c n .pwm p = (if p.lt F.half then F.one else F.minusOne) ∧
    naiveShape c n .superSaw p = ((⟨0x40000000#32⟩ : F).mul p).sub F.one ∧
    naiveShape c n .noise p = c.draw n) ∧
  (∀ k : WaveformKind, drawsOf k = if k = .noise then 1 else 0) ∧
  (∀ (c : Config) (n : Nat) (k : WaveformKind) (p : F), c.num = binary32 → SinBound c → DrawBounded c → IsPhase p →
    IsBipolar (naiveShape c n k p))

/-- In every configuration of the default format: the correction has the three branches of the rule; each of the
eight shapes is the rule's formula, with the corrections' signs, the pulses' polarity and offset, the three
widths 0.5, 0.25 and pw, and SuperSaw's sum of seven sawtooths from -3 to +3 in order (the Frac of a number that
is not finite is the model's own choice, log 7); one process() returns the shape at the phase before the
increment, then advances the phase by freq / fs and changes nothing else, and takes one draw only for Noise. For
every phase in [0, 1), increment in [0, 0.5], pulse width in [0.05, 0.95] and detune in [0, 1], with SIN_BOUND
and bounded draws and the default SuperSaw unit: the correction lies in [-1, 1], Sine, Triangle, Sawtooth and
Noise lie in [-1, 1], the three pulse kinds lie in [-3, 3], and SuperSaw is finite. (R147, R148, R149, R150,
R151, R152, R153, R154, R155, R156, R157, R158.) -/
def Obligations.OscillatorOutputIsBounded : Prop :=
  (∀ (c : Config) (n : Nat) (p dt pw d : F), c.num = binary32 →
    blep c.num p dt =
      (if p.lt dt then
        let x := p.div dt
        ((x.add x).sub (x.mul x)).sub F.one
      else if (F.one.sub dt).lt p then
        let x := (p.sub F.one).div dt
        ((x.mul x).add (x.add x)).add F.one
      else F.zero) ∧
    (let saw (q : F) := (((⟨0x40000000#32⟩ : F).mul q).sub F.one).sub (blep c.num q dt)
     let pulse (w : F) :=
       ((if p.lt w then F.one else F.minusOne).add (blep c.num p dt)).sub
         (blep c.num (let q := p.add (F.one.sub w); if F.one.le q then q.sub F.one else q) dt)
     let term (k : Int) := (saw (F.frac (p.add ((F.itof k).mul (d.mul c.ssUnit))))).div ⟨0x40E00000#32⟩
     shape c n .sine p dt pw d = c.fsin ((⟨0x40C90FDB#32⟩ : F).mul p) ∧
     shape c n .triangle p dt pw d = ((⟨0x40800000#32⟩ : F).mul (p.sub F.half).abs).sub F.one ∧
     shape c n .sawtooth p dt pw d = saw p ∧
     shape c n .square p dt pw d = pulse F.half ∧
     shape c n .pulse25 p dt pw d = pulse F.quarter ∧
     shape c n .pwm p dt pw d = pulse pw ∧
     shape c n .superSaw p dt pw d =
       ((((((F.zero.add (term (-3))).add (term (-2))).add (term (-1))).add (term 0)).add (term 1)).add (term 2)).add
         (term 3) ∧
     shape c n .noise p dt pw d = c.draw n)) ∧
  (∀ (c : Config) (n : Nat) (o : Osc), c.num = binary32 →
    oscProcess c n o =
      (shape c n o.kind o.phase (o.freq.div o.fs) o.pw o.detune,
        { o with phase := let q := o.phase.add (o.freq.div o.fs); if F.one.le q then q.sub F.one else q },
        if o.kind = .noise then n + 1 else n)) ∧
  (∀ (c : Config) (n : Nat) (p dt pw d : F), c.num = binary32 → SinBound c → DrawBounded c →
    c.ssUnit = Config.ssUnitDefault →
    IsPhase p → InRange F.zero F.half dt → InRange Config.pwMin Config.pwMax pw → InUnit d →
      IsBipolar (blep c.num p dt) ∧
      (∀ k ∈ [WaveformKind.sine, .triangle, .sawtooth, .noise], IsBipolar (shape c n k p dt pw d)) ∧
      (∀ k ∈ [WaveformKind.square, .pulse25, .pwm],
        InRange ⟨0xC0400000#32⟩ ⟨0x40400000#32⟩ (shape c n k p dt pw d)) ∧
      (shape c n .superSaw p dt pw d).isFinite = true)

/-- For a phase in [0, 1) the sample index and its successor are below 2048; for a morph position in [0, 1] the
table-frame index and its successor are below 256; a table index is below 8. (R181.) -/
def Obligations.WavetableIndicesAreInsideTheBank : Prop :=
  (∀ p : F, IsPhase p → (splitPos binary32 (p.mul F.c2048)).1 < 2048 ∧ nextSample (splitPos binary32 (p.mul F.c2048)).1 < 2048) ∧
  (∀ m : F, InUnit m → (splitPos binary32 (m.mul F.c255)).1 < 256 ∧ nextFrame (splitPos binary32 (m.mul F.c255)).1 < 256) ∧
  (∀ t : BitVec 3, t.toNat < 8)

/-- In every configuration of the default format: the sample is read between the neighbours i0 and (i0 + 1) mod 2048
on the sample axis and then between table frames f0 and min(f0 + 1, 255) on the frame axis, with the fractions
of phase * 2048 and morph * 255; it is read at the phase before the advance, and only the phase changes. This
holds for every phase and morph position; where the phase is not in [0, 1) or the position not in [0, 1], which
no reachable state has (R181), what the indices are is the model's own choice (log 7). With every entry in [-1,
1] and the phase in [0, 1): at position 0.0 the sample equals in value the sample-axis interpolation inside
table frame 0, at position 1.0 that inside table frame 255; and when the sample fraction is zero that is the
table entry itself. (R175, R176, R177, R178, R179, R172.) -/
def Obligations.WavetableEndsAreExact : Prop :=
  (∀ (c : Config) (t : BitVec 3) (m p : F), c.num = binary32 →
    wtRead c t m p =
      let lerp (a b u : F) : F := a.add (u.mul (b.sub a))
      let pos := p.mul ⟨0x45000000#32⟩
      let i0 := pos.floor.toNat
      let fr := pos.sub (F.itof pos.floor)
      let i1 := (i0 + 1) % 2048
      let fp := m.mul ⟨0x437F0000#32⟩
      let f0 := fp.floor.toNat
      let ff := fp.sub (F.itof fp.floor)
      let f1 := min (f0 + 1) 255
      let a := lerp (c.wtRom t.toNat f0 i0) (c.wtRom t.toNat f0 i1) fr
      let b := lerp (c.wtRom t.toNat f1 i0) (c.wtRom t.toNat f1 i1) fr
      lerp a b ff) ∧
  (∀ (c : Config) (w : Wt), c.num = binary32 →
    wtProcess c w = (wtRead c w.table w.morph w.phase,
      { w with phase := let q := w.phase.add (w.freq.div w.fs); if F.one.le q then q.sub F.one else q })) ∧
  (∀ (c : Config) (t : BitVec 3) (p : F), c.num = binary32 → RomBounded c → IsPhase p →
    let i := splitPos binary32 (p.mul F.c2048)
    let along (f : Nat) := F.lerp (c.wtRom t.toNat f i.1) (c.wtRom t.toNat f (nextSample i.1)) i.2
    (wtRead c t F.zero p).eqv (along 0) = true ∧ (wtRead c t F.one p).eqv (along 255) = true ∧
    (i.2.mag = 0 → (wtRead c t F.zero p).eqv (c.wtRom t.toNat 0 i.1) = true ∧
      (wtRead c t F.one p).eqv (c.wtRom t.toNat 255 i.1) = true))

/-- A note's base frequency is 440 * fexp2((note - 69) / 12). With EXP2_INT, every note a whole number of octaves
from 69 has exactly 440 times that power of two: notes 69, 81, 57 and 9 have 440, 880, 220 and 13.75 Hz. In the
machine, with q the floor of (note - 69) / 12, every note's base frequency lies between 440 * 2^q and 440 * 2^(q
+ 1), so in [6.875, 14080], and a higher note has no lower frequency (EXP2_MONO). (R247, R18.) -/
def Obligations.NoteFrequencies : Prop :=
  (∀ (c : Config) (n : BitVec 7), c.num = binary32 →
    noteFreq c n = (⟨0x43DC0000#32⟩ : F).mul (c.fexp2 ((F.itof ((n.toNat : Int) - 69)).div ⟨0x41400000#32⟩))) ∧
  (∀ c : Config, c.num = binary32 → Exp2Int c →
    noteFreq c 69#7 = ⟨0x43DC0000#32⟩ ∧ noteFreq c 81#7 = ⟨0x445C0000#32⟩ ∧
    noteFreq c 57#7 = ⟨0x435C0000#32⟩ ∧ noteFreq c 9#7 = ⟨0x415C0000#32⟩ ∧
    (∀ n : BitVec 7, ((n.toNat : Int) - 69) % 12 = 0 →
      (noteFreq c n).scaled * 2 ^ 12 = 440 * 2 ^ (12 + ((n.toNat : Int) - 69) / 12).toNat * (F.unit : Int))) ∧
  (∀ n : BitVec 7,
    InRange (F.mul ⟨0x43DC0000#32⟩ (pow2 (((n.toNat : Int) - 69) / 12)))
      (F.mul ⟨0x43DC0000#32⟩ (pow2 (((n.toNat : Int) - 69) / 12 + 1))) (noteFreq hw n) ∧
    InRange ⟨0x40DC0000#32⟩ ⟨0x465C0000#32⟩ (noteFreq hw n)) ∧
  (∀ m n : BitVec 7, m.toNat ≤ n.toNat → (noteFreq hw m).le (noteFreq hw n) = true)

/-- The normalized velocity is itof(vel) / 127.0 and lies in [0, 1]; 127 gives 1.0, 100 gives 0x3F499326, 80 gives
0x3F214285 and 0 gives 0.0; and NOTE_ON with velocity 0 makes a voice active. In every configuration of the
default format the divisor is VEL_MAX (R8). (R248.) -/
def Obligations.VelocityIsNormalized : Prop :=
  (∀ v : BitVec 7, noteVel hw v = (F.itof (v.toNat : Int)).div ⟨0x42FE0000#32⟩ ∧ InUnit (noteVel hw v)) ∧
  noteVel hw 127#7 = F.one ∧ noteVel hw 100#7 = ⟨0x3F499326#32⟩ ∧ noteVel hw 80#7 = ⟨0x3F214285#32⟩ ∧
  noteVel hw 0#7 = F.zero ∧
  (∀ (c : Config) (v : BitVec 7), c.num = binary32 → noteVel c v = (F.itof (v.toNat : Int)).div c.velMax) ∧
  (∀ (n : BitVec 7) (s : State), ∃ t, exec (.noteOn n 0#7) s = .next t ∧ active t (allocate s) = true ∧
    t.voices[allocate s].vel = F.zero)

/-- In every configuration of the default format, VoiceProcess is, with the registers named standing for the voice's
own copies of them (equal to them by R44; the model reads the copies, log 12): one LFO sample l; the pitch
multiplier 1 + (l * LFO_TO_PITCH) * 0.1; the one frequency base * multiplier, clamped to [0, fs / 2], given to
both oscillators and the wavetable oscillator; the draws taken in the order LFO, osc1, osc2; the cross-fade of
osc1 and osc2 by OSC_MIX and then of that and the wavetable by WT_MIX; the cutoff base * (1 + (fe * ENV_AMT + (l
* LFO_TO_FILTER) * 0.5) * 4) with the filter envelope's new level fe, clamped to [20, 20000]; the filter; and
the filter's output times (amplitude level times velocity). Every component is advanced once and nothing else of
the voice changes. For an LFO value in [-1, 1]: routing amount 0 gives the multiplier 1.0 exactly and any amount
in [0, 1] one in [0.9, 1.1]; the modulated cutoff is 6000 for base 2000, amount 0.5, no LFO routing and envelope
1; and the sample on which the amplitude envelope reaches Idle is a zero. (R251, R252, R253, R254, R255, R274,
R44.) -/
def Obligations.VoiceRoutingValues : Prop :=
  (∀ (c : Config) (n : Nat) (v : Voice), c.num = binary32 →
    let l := naiveShape c n v.lfo.kind v.lfo.phase
    let n1 := if v.lfo.kind = .noise then n + 1 else n
    let f := v.baseFreq.mul (F.one.add ((l.mul v.lfoToPitch).mul ⟨0x3DCCCCCD#32⟩))
    let freq (fs : F) := f.clamp F.zero (fs.mul F.half)
    let next (p dt : F) := let q := p.add dt; if F.one.le q then q.sub F.one else q
    let o1 := shape c n1 v.osc1.kind v.osc1.phase ((freq v.osc1.fs).div v.osc1.fs) v.osc1.pw v.osc1.detune
    let n2 := if v.osc1.kind = .noise then n1 + 1 else n1
    let o2 := shape c n2 v.osc2.kind v.osc2.phase ((freq v.osc2.fs).div v.osc2.fs) v.osc2.pw v.osc2.detune
    let n3 := if v.osc2.kind = .noise then n2 + 1 else n2
    let w := wtRead c v.wt.table v.wt.morph v.wt.phase
    let mix (a b x : F) := (a.mul (F.one.sub x)).add (b.mul x)
    let sig := mix (mix o1 o2 v.oscMix) w v.wtMix
    let fe := (envNext binary32 v.fltEnv).level
    let cut := v.baseCutoff.mul (F.one.add
      (((fe.mul v.envAmt).add ((l.mul v.lfoToFlt).mul ⟨0x3F000000#32⟩)).mul ⟨0x40800000#32⟩))
    let y := fltProcess c { v.flt with cutoff := cut.clamp ⟨0x41A00000#32⟩ ⟨0x469C4000#32⟩ } sig
    let ae := (envNext binary32 v.ampEnv).level
    voiceProcess c n v =
      (y.1.mul (ae.mul v.vel),
        { v with
          lfo := { v.lfo with phase := next v.lfo.phase (v.lfo.rate.div v.lfo.fs) }
          osc1 := { v.osc1 with
            freq := freq v.osc1.fs, phase := next v.osc1.phase ((freq v.osc1.fs).div v.osc1.fs) }
          osc2 := { v.osc2 with
            freq := freq v.osc2.fs, phase := next v.osc2.phase ((freq v.osc2.fs).div v.osc2.fs) }
          wt := { v.wt with freq := freq v.wt.fs, phase := next v.wt.phase ((freq v.wt.fs).div v.wt.fs) }
          fltEnv := envNext binary32 v.fltEnv
          flt := y.2
          ampEnv := envNext binary32 v.ampEnv },
        n3)) ∧
  (∀ (v : Voice) (l : F), IsBipolar l →
    (v.lfoToPitch = F.zero → pitchMod binary32 v l = F.one) ∧
    (InUnit v.lfoToPitch → InRange ⟨0x3F666666#32⟩ ⟨0x3F8CCCCD#32⟩ (pitchMod binary32 v l))) ∧
  (∀ (v : Voice) (l : F), IsBipolar l → v.baseCutoff = ⟨0x44FA0000#32⟩ → v.envAmt = F.half → v.lfoToFlt = F.zero →
    modCutoff binary32 v l F.one = ⟨0x45BB8000#32⟩) ∧
  (∀ (c : Config) (n : Nat) (v : Voice), c.num = binary32 → v.ampEnv.stage = .release →
    (envNext binary32 v.ampEnv).stage = .idle → InUnit v.vel → (voiceProcess c n v).2.1.flt.s3.isFinite = true →
    (voiceProcess c n v).1.mag = 0)

/-- In every configuration of the default format one filter sample computes k = 4 * res, u0 = tanh(x * (1 + 3 *
drive)), u = u0 - k * s3 with the fourth stage's value from the previous sample, and the four stages in order,
each s + g * (tanh(in) - tanh(s)) with the predecessor's new value as its input; the output is the fourth
stage's new value, and nothing but the four stages changes. With TANH_BOUND, TANH_SAT and G_RANGE: for any input
that is no NaN, resonance and drive in [0, 1], a cutoff in [20, 20000] and a sample rate in [8000, 192000], a
filter whose four stages lie in [-12, 12] has them in [-12, 12] after one sample, and so the output. (R194,
R195, R196, R197, R198, R199, R200, R18.) -/
def Obligations.FilterStagesStayBounded : Prop :=
  (∀ (c : Config) (f : Flt) (x : F), c.num = binary32 →
    fltProcess c f x =
      let g := c.gCoef (if c.fcMax.lt (f.cutoff.div f.fs) then c.fcMax else f.cutoff.div f.fs)
      let k := (⟨0x40800000#32⟩ : F).mul f.res
      let u0 := c.ftanh (x.mul (F.one.add ((⟨0x40400000#32⟩ : F).mul f.drive)))
      let u := u0.sub (k.mul f.s3)
      let s0 := f.s0.add (g.mul ((c.ftanh u).sub (c.ftanh f.s0)))
      let s1 := f.s1.add (g.mul ((c.ftanh s0).sub (c.ftanh f.s1)))
      let s2 := f.s2.add (g.mul ((c.ftanh s1).sub (c.ftanh f.s2)))
      let s3 := f.s3.add (g.mul ((c.ftanh s2).sub (c.ftanh f.s3)))
      (s3, { f with s0 := s0, s1 := s1, s2 := s2, s3 := s3 })) ∧
  (∀ (c : Config) (f : Flt) (x : F), c.num = binary32 → TanhBound c → TanhSat c → GRange c → c.fcMax = F.half →
    x.isNaN = false → InUnit f.res → InUnit f.drive → InRange Config.cutMin Config.cutMax f.cutoff →
    InRange Config.fsMinDefault Config.fsMaxDefault f.fs → FltBounded f →
      FltBounded (fltProcess c f x).2 ∧ IsStage (fltProcess c f x).1)

/-- For every fc in [0, 0.5] the coefficient of the default quartic, w = TWO_PI * fc summed left to right, lies in
[0, 1.25]; and the normalized cutoff is cutoff / fs clamped to 0.5. In every configuration of the default format
the machine's coefficient is GCoef, a function of G1 to G4 and of cutoff / fs clamped to FC_MAX (R8). (R194.) -/
def Obligations.DefaultFilterCoefficientIsInRange : Prop :=
  GRange hw ∧
  (∀ fc : F, hw.gCoef fc =
    let w := (⟨0x40C90FDB#32⟩ : F).mul fc
    let w2 := w.mul w
    let w3 := w2.mul w
    let w4 := w3.mul w
    ((((⟨0x3F7D3C36#32⟩ : F).mul w).add ((⟨0xBEDE4F76#32⟩ : F).mul w2)).add ((⟨0x3E0D6A16#32⟩ : F).mul w3)).add
      ((⟨0xBCA57A78#32⟩ : F).mul w4)) ∧
  (∀ f : Flt, fltG hw f = hw.gCoef (if F.half.lt (f.cutoff.div f.fs) then F.half else f.cutoff.div f.fs)) ∧
  (∀ (c : Config) (f : Flt), c.num = binary32 →
    fltG c f = c.gPoly c.g1 c.g2 c.g3 c.g4
      (if c.fcMax.lt (f.cutoff.div f.fs) then c.fcMax else f.cutoff.div f.fs))

/-- The machine's configuration, whatever its free values are (logs 3, 5, 6), has all ten named properties,
TANH_BOUND, TANH_ZERO, TANH_ODD, TANH_MONO, TANH_SAT, SIN_BOUND, SIN_ZERO, EXP2_INT, EXP2_POS and EXP2_MONO;
every wavetable entry and every draw lies in [-1, 1], and tanh of a NaN is a NaN. (R18, R20, R172.) -/
def Obligations.MachineFunctionsHaveTheNamedProperties : Prop :=
  TanhBound hw ∧ TanhZero hw ∧ TanhOdd hw ∧ TanhMono hw ∧ TanhSat hw ∧ (∀ x : F, x.isNaN = true → (hw.ftanh x).isNaN = true) ∧
  SinBound hw ∧ SinZero hw ∧ Exp2Int hw ∧ Exp2Pos hw ∧ Exp2Mono hw ∧ RomBounded hw ∧ DrawBounded hw

/-- For finite operands, the result of each of the four operations is infinite exactly when the exact value reaches
the overflow threshold, with the sign of the exact value, and otherwise is finite and the number nearest to the
exact value, with an even last bit at a tie, division being by a nonzero number. A sum or difference that is
exactly zero is +0.0, but -0.0 when both terms added are -0.0. A product or quotient of finite numbers has the
sign of its operands' signs taken together, also when it is zero. A nonzero number divided by zero is the
infinity of that sign. An infinity added to or subtracted from a finite number, multiplied by a nonzero one or
divided by a finite one is an infinity of the IEEE 754 sign, and a finite number divided by an infinity is a
zero. Any operation on a NaN, the sum of infinities of opposite signs, the difference of equal ones, an infinity
times a zero, and a zero or an infinity divided by its like are NaNs (which NaN is free, log 2). (R12, R13.) -/
def Obligations.ArithmeticRoundsToNearestEven : Prop :=
  (∀ a b : F, a.isFinite = true → b.isFinite = true →
    RoundsTo (a.scaled + b.scaled) 1 (a.add b) ∧
    RoundsTo (a.scaled - b.scaled) 1 (a.sub b) ∧
    RoundsTo (a.scaled * b.scaled) (2 ^ 149) (a.mul b) ∧
    (b.mag ≠ 0 → RoundsTo (a.scaled * b.scaled.sign * 2 ^ 149) |b.scaled| (a.div b)) ∧
    (a.scaled + b.scaled = 0 → a.add b = F.signedZero (a.sign && b.sign)) ∧
    (a.scaled = b.scaled → a.sub b = F.signedZero (a.sign && !b.sign)) ∧
    (a.mul b).sign = (a.sign != b.sign) ∧
    (b.mag ≠ 0 → (a.div b).sign = (a.sign != b.sign)) ∧
    (b.mag = 0 → if a.mag = 0 then (a.div b).isNaN = true else a.div b = F.inf (a.sign != b.sign))) ∧
  (∀ (p : Bool) (b : F), b.isFinite = true →
    (F.inf p).add b = F.inf p ∧ b.add (F.inf p) = F.inf p ∧ (F.inf p).sub b = F.inf p ∧ b.sub (F.inf p) = F.inf !p ∧
    (if b.mag = 0 then ((F.inf p).mul b).isNaN = true ∧ (b.mul (F.inf p)).isNaN = true
      else (F.inf p).mul b = F.inf (p != b.sign) ∧ b.mul (F.inf p) = F.inf (b.sign != p)) ∧
    (F.inf p).div b = F.inf (p != b.sign) ∧ b.div (F.inf p) = F.signedZero (b.sign != p)) ∧
  (∀ p q : Bool,
    (if p = q then (F.inf p).add (F.inf q) = F.inf p else ((F.inf p).add (F.inf q)).isNaN = true) ∧
    (if p = q then ((F.inf p).sub (F.inf q)).isNaN = true else (F.inf p).sub (F.inf q) = F.inf p) ∧
    (F.inf p).mul (F.inf q) = F.inf (p != q) ∧ ((F.inf p).div (F.inf q)).isNaN = true) ∧
  (∀ a b : F, a.isNaN = true ∨ b.isNaN = true →
    (a.add b).isNaN = true ∧ (a.sub b).isNaN = true ∧ (a.mul b).isNaN = true ∧ (a.div b).isNaN = true)

/-- Any comparison with a NaN is false; +0 equals -0; the absolute value clears the sign bit; clamp gives lo below
lo, hi above hi and the value itself between; an infinity gives the bound on its side and a NaN stays as it is.
(R14, R15.) -/
def Obligations.ComparisonsAndClamp : Prop :=
  (∀ a b : F, a.isNaN = true ∨ b.isNaN = true → a.lt b = false ∧ a.le b = false ∧ a.eqv b = false) ∧
  (∀ a b : F, a.isNaN = false → b.isNaN = false →
    (a.lt b = true ↔ a.scaled < b.scaled) ∧ (a.le b = true ↔ a.scaled ≤ b.scaled) ∧
    (a.eqv b = true ↔ a.scaled = b.scaled)) ∧
  F.eqv ⟨0x00000000#32⟩ ⟨0x80000000#32⟩ = true ∧ (∀ a : F, a.abs.bits = a.bits &&& 0x7FFFFFFF#32) ∧
  (∀ x lo hi : F, lo.le hi = true →
    (x.lt lo = true → x.clamp lo hi = lo) ∧ (hi.lt x = true → x.clamp lo hi = hi) ∧
    (InRange lo hi x → x.clamp lo hi = x) ∧ (x.isNaN = true → x.clamp lo hi = x) ∧
    (lo.isFinite = true → hi.isFinite = true →
      F.clamp ⟨0x7F800000#32⟩ lo hi = hi ∧ F.clamp ⟨0xFF800000#32⟩ lo hi = lo))

/-- For every finite number the floor is the greatest integer not above it, and Frac is the number less its floor,
or 0.0 where that difference rounds to 1.0, and lies in [0, 1); integers of magnitude at most 2^24 convert
exactly; Wrap takes 1.0 from a number that reaches 1.0 and leaves any other, and of a number in [0, 2) lies in
[0, 1); Lerp is a + t * (b - a). (R16, R19.) -/
def Obligations.FloorFracAndConversionsAreExact : Prop :=
  (∀ x : F, x.isFinite = true →
    x.floor * (F.unit : Int) ≤ x.scaled ∧ x.scaled < (x.floor + 1) * (F.unit : Int) ∧
    (x.frac = let r := x.sub (F.itof x.floor); if F.one.le r then F.zero else r) ∧ IsPhase x.frac) ∧
  (∀ n : Int, |n| ≤ 2 ^ 24 → (F.itof n).isFinite = true ∧ (F.itof n).scaled = n * (F.unit : Int)) ∧
  (∀ x : F, x.wrap = if F.one.le x then x.sub F.one else x) ∧
  (∀ x : F, F.zero.le x = true → x.lt F.two = true → IsPhase x.wrap) ∧
  (∀ a b t : F, F.lerp a b t = a.add (t.mul (b.sub a)))

/-- After reset every register reads the value of the register table, SAMPLE_RATE is 48000, CTRL, STATUS, ACTIVE and
every VOICE_STAT read 0, every voice has note, velocities, base frequency, phases and filter stages 0, both
envelopes Idle at level 0, and both streams are empty (the empty port and the zero draw count are the model's
own choices, logs 10 and 6, and are not claimed here); and in every configuration of the default format the
registers are reset to the configuration's reset values and FS_RESET, every copy equals its global, and the
sound state of every voice is zero but for the configured transient cutoff (R8). (R62, R380, R31, R381, R8.) -/
def Obligations.ResetStateIsTheSpecified : Prop :=
  let s := State.reset
  [0x10, 0x11, 0x12, 0x13, 0x14, 0x15, 0x16, 0x17, 0x18].map (fun n => regRead (BitVec.ofNat 8 n) s) =
    [2#32, 2#32, 0#32, 0#32, 0x3F000000#32, 0x3F000000#32, 0x3F000000#32, 0#32, 0#32] ∧
  [0x19, 0x1A, 0x1B, 0x1C, 0x1D, 0x1E, 0x1F, 0x20, 0x21].map (fun n => regRead (BitVec.ofNat 8 n) s) =
    [0#32, 0x44FA0000#32, 0#32, 0x3F000000#32, 0#32, 0x41200000#32, 0x42C80000#32, 0x3F333333#32, 0x43480000#32] ∧
  [0x22, 0x23, 0x24, 0x25, 0x26, 0x27, 0x28, 0x29, 0x2A].map (fun n => regRead (BitVec.ofNat 8 n) s) =
    [0x41200000#32, 0x42C80000#32, 0x3F333333#32, 0x43480000#32, 0x3F800000#32, 0#32, 0#32, 0#32, 0x3F000000#32] ∧
  [0x08, 0x09, 0x0A, 0x0B].map (fun n => regRead (BitVec.ofNat 8 n) s) = [0x473B8000#32, 0#32, 0#32, 0#32] ∧
  (∀ v : Fin 16, regRead (BitVec.ofNat 8 (0x40 + v.val)) s = 0#32 ∧
    soundState s.voices[v] = ((0#7, 0#7, F.zero, F.zero), (F.zero, F.zero, F.zero, F.zero),
      (F.zero, F.zero, F.zero, ⟨0x44FA0000#32⟩), (F.zero, F.zero, F.zero, F.zero),
      (.idle, F.zero, F.zero), (.idle, F.zero, F.zero)) ∧
    VoiceCopies s.params s.sampleRate s.voices[v]) ∧
  s.frames = [] ∧ s.responses = [] ∧
  (∀ c : Config, c.num = binary32 →
    let r := resetIn c
    r.params = c.resetParams ∧ r.sampleRate = c.fsReset ∧ r.lfoRetrig = c.resetLfoRetrig ∧ r.cmdErr = c.resetCmdErr ∧
    r.frames = [] ∧ r.responses = [] ∧
    ∀ v : Fin 16, VoiceCopies r.params r.sampleRate r.voices[v] ∧
      soundState r.voices[v] = ((0#7, 0#7, F.zero, F.zero), (F.zero, F.zero, F.zero, F.zero),
        (F.zero, F.zero, F.zero, c.resetCutoff), (F.zero, F.zero, F.zero, F.zero),
        (.idle, F.zero, F.zero), (.idle, F.zero, F.zero)))

/-- After reset every register is in its domain, every copy equals its global, every phase is in [0, 1), every level
in [0, 1], Idle means level 0, and every filter stage lies in [-12, 12]. (R51, R52, R44, R62.) -/
def Obligations.EngineInvariantHoldsAtReset : Prop :=
  EngineInv State.reset ∧ StagesBounded State.reset

/-- From every state, reachable or not, in which every parameter register lies in its domain, every private copy
equals its global register with current rates, every phase is in [0, 1), every envelope level and snapshot in
[0, 1], Idle means level 0, and velocities and base frequencies are in range, the step gives a state with all of
that, whatever word is presented. (R51, R52, R44, R46.) -/
def Obligations.EveryStepKeepsTheEngineInvariant : Prop :=
  ∀ s t : State, EngineInv s → step s = .next t → EngineInv t

/-- From every state with the engine invariant and all filter stages in [-12, 12], the step gives a state with both,
for whatever values the free functions, the wavetable and the draws take. (R200, R41, R51, R18.) -/
def Obligations.EveryStepKeepsTheFilterBound : Prop :=
  ∀ s t : State, EngineInv s → StagesBounded s → step s = .next t → EngineInv t ∧ StagesBounded t

/-- From every state with the engine invariant and the filter bound, every frame a step adds to the stream has
equal, finite channels of magnitude at most 256. (R257, R273, R350, R200.) -/
def Obligations.EveryEmittedFrameIsFinite : Prop :=
  ∀ s t : State, EngineInv s → StagesBounded s → step s = .next t →
    ∃ new, t.frames = s.frames ++ new ∧
      ∀ fr ∈ new, fr.1 = fr.2 ∧ InRange ⟨0xC3800000#32⟩ ⟨0x43800000#32⟩ fr.1
end

