-- ==== Sys2Proof/Laws/Float.lean ====
section
/-! SUPPORT. Lemmas about binary32 arithmetic: the fields of a built pattern, that rounding is exact on representable
values and monotone, and what follows for the four operators: a bound by a binary32 value on the exact result is a
bound on the rounded result. -/

namespace Sys2Proof

namespace F

/-! ### Rounding to an integer -/

theorem roundHalfEven_bounds (n d : Nat) (hd : 0 < d) :
    2 * (roundHalfEven n d * d) ≤ 2 * n + d ∧ 2 * n ≤ 2 * (roundHalfEven n d * d) + d ∧
    (2 * n + d = 2 * (roundHalfEven n d * d) → roundHalfEven n d % 2 = 0) ∧
    (2 * n = 2 * (roundHalfEven n d * d) + d → roundHalfEven n d % 2 = 0) := by
  have hn : n = n / d * d + n % d := (Nat.div_add_mod' n d).symm
  have hr := Nat.mod_lt n hd
  have hs : (n / d + 1) * d = n / d * d + d := by ring
  unfold roundHalfEven
  generalize hq : n / d = q at *
  generalize hm : n % d = r at *
  split_ifs with h1 h2 h3
  · refine ⟨?_, ?_, ?_, ?_⟩ <;> intros <;> omega
  · rw [hs]; refine ⟨?_, ?_, ?_, ?_⟩ <;> intros <;> omega
  · refine ⟨?_, ?_, ?_, ?_⟩ <;> intros <;> omega
  · rw [hs]; refine ⟨?_, ?_, ?_, ?_⟩ <;> intros <;> omega

theorem roundHalfEven_mono (n d n' d' : Nat) (hd : 0 < d) (hd' : 0 < d') (h : n * d' ≤ n' * d) :
    roundHalfEven n d ≤ roundHalfEven n' d' := by
  obtain ⟨a1, -, a3, -⟩ := roundHalfEven_bounds n d hd
  obtain ⟨-, b2, -, b4⟩ := roundHalfEven_bounds n' d' hd'
  generalize roundHalfEven n d = q at *
  generalize roundHalfEven n' d' = q' at *
  by_contra hlt
  have hq : q' + 1 ≤ q := by omega
  have hdd : 0 < d * d' := Nat.mul_pos hd hd'
  -- both sides in units of d * d'
  have e1 : 2 * (q * (d * d')) ≤ 2 * (n * d') + d * d' := by
    have := Nat.mul_le_mul_right d' a1; nlinarith
  have e2 : 2 * (n' * d) ≤ 2 * (q' * (d * d')) + d * d' := by
    have := Nat.mul_le_mul_right d b2; nlinarith
  have e3 : (q' + 1) * (d * d') ≤ q * (d * d') := Nat.mul_le_mul_right _ hq
  have e4 : (q' + 1) * (d * d') = q' * (d * d') + d * d' := by ring
  have hqq : q = q' + 1 := by
    have : q * (d * d') ≤ (q' + 1) * (d * d') := by omega
    have := Nat.le_of_mul_le_mul_right this hdd
    omega
  subst hqq
  have t1 : 2 * n + d = 2 * ((q' + 1) * d) := by
    have : (2 * n + d) * d' = 2 * ((q' + 1) * d) * d' := by nlinarith
    exact Nat.eq_of_mul_eq_mul_right hd' this
  have t2 : 2 * n' = 2 * (q' * d') + d' := by
    have : 2 * n' * d = (2 * (q' * d') + d') * d := by nlinarith
    exact Nat.eq_of_mul_eq_mul_right hd this
  have := a3 t1
  have := b4 t2
  omega

theorem roundHalfEven_exact (q d : Nat) (hd : 0 < d) : roundHalfEven (q * d) d = q := by
  simp [roundHalfEven, Nat.mul_div_cancel _ hd, hd]

/-! ### Rounding to binary32 magnitude bits -/

theorem lastPlace_mono {q q' : Nat} (h : q ≤ q') : lastPlace q ≤ lastPlace q' := by
  unfold lastPlace
  by_cases hq : q = 0
  · subst hq; simp
  · have : Nat.log2 q ≤ Nat.log2 q' := by
      rw [Nat.le_log2 (by omega)]
      exact le_trans (Nat.log2_self_le hq) h
    omega

theorem lt_pow_lastPlace (q : Nat) : q < 2 ^ (lastPlace q + 24) := by
  unfold lastPlace
  by_cases hq : q = 0
  · subst hq; positivity
  · calc q < 2 ^ (Nat.log2 q + 1) := Nat.lt_log2_self
      _ ≤ _ := Nat.pow_le_pow_right (by norm_num) (by omega)

theorem pow_le_of_lastPlace_pos {q : Nat} (h : 0 < lastPlace q) : 2 ^ (lastPlace q + 23) ≤ q := by
  unfold lastPlace at *
  have hq : q ≠ 0 := by rintro rfl; simp at h
  calc 2 ^ (Nat.log2 q - 23 + 23) = 2 ^ Nat.log2 q := by congr 1; omega
    _ ≤ q := Nat.log2_self_le hq

/-- A quotient below `2 ^ (s + 24)` rounds, at the step `s`, to at most `2 ^ 24`. -/
theorem roundHalfEven_le_of_lastPlace (n d : Nat) (hd : 0 < d) :
    roundHalfEven n (d * 2 ^ lastPlace (n / d)) ≤ 2 ^ 24 := by
  have h := lt_pow_lastPlace (n / d)
  set s := lastPlace (n / d)
  have hn : n < 2 ^ (s + 24) * d := (Nat.div_lt_iff_lt_mul hd).1 h
  have hp : 0 < d * 2 ^ s := by positivity
  rw [← roundHalfEven_exact (2 ^ 24) (d * 2 ^ s) hp]
  apply roundHalfEven_mono _ _ _ _ hp hp
  apply Nat.mul_le_mul_right
  calc n ≤ 2 ^ (s + 24) * d := hn.le
    _ = 2 ^ 24 * (d * 2 ^ s) := by rw [pow_add]; ring

theorem le_roundHalfEven_of_lastPlace (n d : Nat) (hd : 0 < d) (hs : 0 < lastPlace (n / d)) :
    2 ^ 23 ≤ roundHalfEven n (d * 2 ^ lastPlace (n / d)) := by
  have h := pow_le_of_lastPlace_pos hs
  set s := lastPlace (n / d)
  have hn : 2 ^ (s + 23) * d ≤ n := (Nat.le_div_iff_mul_le hd).1 h
  have hp : 0 < d * 2 ^ s := by positivity
  rw [← roundHalfEven_exact (2 ^ 23) (d * 2 ^ s) hp]
  apply roundHalfEven_mono _ _ _ _ hp hp
  apply Nat.mul_le_mul_right
  calc 2 ^ 23 * (d * 2 ^ s) = 2 ^ (s + 23) * d := by rw [pow_add]; ring
    _ ≤ n := hn

/-- Rounding is monotone (R13). -/
theorem magBits_mono (n d n' d' : Nat) (hd : 0 < d) (hd' : 0 < d') (h : n * d' ≤ n' * d) :
    magBits n d ≤ magBits n' d' := by
  have hq : n / d ≤ n' / d' := by
    rw [Nat.le_div_iff_mul_le hd']
    by_contra hc
    have h1 : n' + 1 ≤ n / d * d' := by omega
    have h2 := Nat.mul_le_mul_right d h1
    have h3 : n / d * d ≤ n := Nat.div_mul_le_self n d
    have h4 := Nat.mul_le_mul_right d' h3
    nlinarith
  have hs := lastPlace_mono hq
  unfold magBits
  apply min_le_min_right
  rcases Nat.eq_or_lt_of_le hs with he | hl
  · rw [he]
    apply Nat.add_le_add_left
    apply roundHalfEven_mono _ _ _ _ (by positivity) (by positivity)
    have := Nat.mul_le_mul_right (2 ^ lastPlace (n' / d')) h
    nlinarith
  · have a := roundHalfEven_le_of_lastPlace n d hd
    have b := le_roundHalfEven_of_lastPlace n' d' hd' (by omega)
    have : (lastPlace (n / d) + 1) * 2 ^ 23 ≤ lastPlace (n' / d') * 2 ^ 23 := Nat.mul_le_mul_right _ hl
    omega

theorem magBits_le_infBits (n d : Nat) : magBits n d ≤ infBits := min_le_right _ _

/-- The magnitude, in units of 2^-149, that bits 30:0 equal to `m` stand for. -/
def magOfBits (m : Nat) : Nat :=
  if m / 2 ^ 23 = 0 then m % 2 ^ 23 else (2 ^ 23 + m % 2 ^ 23) * 2 ^ (m / 2 ^ 23 - 1)

/-- Rounding a representable magnitude gives it back (R13). -/
theorem magBits_exact (m d : Nat) (hm : m ≤ infBits) (hd : 0 < d) : magBits (magOfBits m * d) d = m := by
  unfold magBits magOfBits
  rw [Nat.mul_div_cancel _ hd]
  split_ifs with h
  · have hlt : m < 2 ^ 23 := by omega
    have : lastPlace (m % 2 ^ 23) = 0 := by
      unfold lastPlace
      by_cases h0 : m % 2 ^ 23 = 0
      · rw [h0]; simp
      · have : Nat.log2 (m % 2 ^ 23) < 23 := (Nat.log2_lt h0).2 (by omega)
        omega
    rw [this]
    simp only [pow_zero, mul_one, zero_mul, zero_add]
    rw [roundHalfEven_exact _ _ hd, Nat.mod_eq_of_lt hlt]
    omega
  · have hfr := Nat.mod_lt m (show 0 < 2 ^ 23 by norm_num)
    have hdm := Nat.div_add_mod m (2 ^ 23)
    generalize m / 2 ^ 23 = e at *
    generalize m % 2 ^ 23 = f at *
    have hpos : 0 < 2 ^ (e - 1) := by positivity
    have : lastPlace ((2 ^ 23 + f) * 2 ^ (e - 1)) = e - 1 := by
      unfold lastPlace
      have hne : (2 ^ 23 + f) * 2 ^ (e - 1) ≠ 0 := by positivity
      have : Nat.log2 ((2 ^ 23 + f) * 2 ^ (e - 1)) = 23 + (e - 1) := by
        rw [Nat.log2_eq_iff hne]
        constructor
        · rw [pow_add]; exact Nat.mul_le_mul_right _ (by omega)
        · rw [show 23 + (e - 1) + 1 = 24 + (e - 1) by omega, pow_add]
          exact Nat.mul_lt_mul_of_pos_right (by omega) hpos
      omega
    rw [this, show (2 ^ 23 + f) * 2 ^ (e - 1) * d = (2 ^ 23 + f) * (d * 2 ^ (e - 1)) by ring,
      roundHalfEven_exact _ _ (by positivity)]
    omega

theorem magOfBits_lt_iff {m m' : Nat} (hm : m ≤ infBits) (hm' : m' ≤ infBits) :
    magOfBits m < magOfBits m' ↔ m < m' := by
  have key : ∀ a b, a ≤ infBits → b ≤ infBits → magOfBits a ≤ magOfBits b → a ≤ b := by
    intro a b ha hb h
    have := magBits_mono (magOfBits a * 1) 1 (magOfBits b * 1) 1 one_pos one_pos (by omega)
    rwa [magBits_exact a 1 ha one_pos, magBits_exact b 1 hb one_pos] at this
  constructor
  · intro h
    have := key m m' hm hm' h.le
    rcases Nat.eq_or_lt_of_le this with rfl | h'
    · exact absurd h (lt_irrefl _)
    · exact h'
  · intro h
    by_contra hc
    have := key m' m hm' hm (by omega)
    omega

theorem magOfBits_le_iff {m m' : Nat} (hm : m ≤ infBits) (hm' : m' ≤ infBits) :
    magOfBits m ≤ magOfBits m' ↔ m ≤ m' := by
  rw [← not_lt, ← not_lt, magOfBits_lt_iff hm' hm]

/-! ### Fields of a pattern -/

/-- Bits 30:0. -/
def low31 (x : F) : Nat := x.bits.toNat % 2 ^ 31

theorem bits_lt (x : F) : x.bits.toNat < 2 ^ 32 := x.bits.isLt

theorem ext_bits {x y : F} (h : x.bits.toNat = y.bits.toNat) : x = y := by
  cases x; cases y; congr 1; exact BitVec.eq_of_toNat_eq h

theorem mag_eq (x : F) : x.mag = magOfBits x.low31 := by
  unfold mag magOfBits low31 expField fracField
  have h1 : x.bits.toNat % 2 ^ 31 / 2 ^ 23 = x.bits.toNat / 2 ^ 23 % 2 ^ 8 := by omega
  have h2 : x.bits.toNat % 2 ^ 31 % 2 ^ 23 = x.bits.toNat % 2 ^ 23 := by omega
  rw [h1, h2]

theorem isNaN_iff (x : F) : x.isNaN = true ↔ infBits < x.low31 := by
  simp only [isNaN, expField, fracField, low31, infBits, Bool.and_eq_true, beq_iff_eq, bne_iff_ne]
  have := x.bits_lt
  omega

theorem isNaN_false_iff (x : F) : x.isNaN = false ↔ x.low31 ≤ infBits := by
  rw [← not_lt, ← isNaN_iff, Bool.not_eq_true]

theorem isInf_iff (x : F) : x.isInf = true ↔ x.low31 = infBits := by
  simp only [isInf, expField, fracField, low31, infBits, Bool.and_eq_true, beq_iff_eq]
  have := x.bits_lt
  omega

theorem isFinite_iff (x : F) : x.isFinite = true ↔ x.low31 < infBits := by
  simp only [isFinite, expField, low31, infBits, bne_iff_ne]
  have := x.bits_lt
  omega

theorem isFinite_not_isNaN {x : F} (h : x.isFinite = true) : x.isNaN = false := by
  rw [isFinite_iff] at h; rw [isNaN_false_iff]; omega

theorem isFinite_not_isInf {x : F} (h : x.isFinite = true) : x.isInf = false := by
  rw [isFinite_iff] at h
  rw [← Bool.not_eq_true, isInf_iff]; omega

theorem build_toNat (neg : Bool) (m : Nat) (hm : m < 2 ^ 31) :
    (build neg m).bits.toNat = (if neg then 2 ^ 31 else 0) + m := by
  unfold build
  rw [BitVec.toNat_ofNat, Nat.mod_eq_of_lt]
  split_ifs <;> omega

theorem infBits_lt : infBits < 2 ^ 31 := by decide

theorem low31_build (neg : Bool) (m : Nat) (hm : m ≤ infBits) : (build neg m).low31 = m := by
  have := infBits_lt
  unfold low31
  rw [build_toNat _ _ (by omega)]
  split_ifs <;> omega

theorem sign_build (neg : Bool) (m : Nat) (hm : m ≤ infBits) : (build neg m).sign = neg := by
  have := infBits_lt
  unfold sign
  rw [build_toNat _ _ (by omega)]
  cases neg
  · simp; omega
  · simp

theorem build_not_isNaN (neg : Bool) (m : Nat) (hm : m ≤ infBits) : (build neg m).isNaN = false := by
  rw [isNaN_false_iff, low31_build _ _ hm]; exact hm

theorem mag_build (neg : Bool) (m : Nat) (hm : m ≤ infBits) : (build neg m).mag = magOfBits m := by
  rw [mag_eq, low31_build _ _ hm]

theorem build_sign_low31 (x : F) : build x.sign x.low31 = x := by
  apply ext_bits
  have h1 := x.bits_lt
  have h2 : x.low31 < 2 ^ 31 := Nat.mod_lt _ (by norm_num)
  rw [build_toNat _ _ h2]
  unfold sign low31 at *
  split_ifs with h
  · have := of_decide_eq_true h; omega
  · have : ¬ 2 ^ 31 ≤ x.bits.toNat := by simpa using h
    omega

/-- A pattern that is no NaN is fixed by its sign and magnitude. -/
theorem eq_of_sign_mag {x y : F} (hx : x.isNaN = false) (hy : y.isNaN = false) (hs : x.sign = y.sign)
    (hm : x.mag = y.mag) : x = y := by
  rw [isNaN_false_iff] at hx hy
  rw [mag_eq, mag_eq] at hm
  have h1 := (magOfBits_le_iff hx hy).1 hm.le
  have h2 := (magOfBits_le_iff hy hx).1 hm.ge
  rw [← build_sign_low31 x, ← build_sign_low31 y, hs, Nat.le_antisymm h1 h2]

/-! ### The rounded value -/

theorem sign_ofRatio (neg : Bool) (n d : Nat) : (ofRatio neg n d).sign = neg :=
  sign_build _ _ (magBits_le_infBits n d)

theorem ofRatio_not_isNaN (neg : Bool) (n d : Nat) : (ofRatio neg n d).isNaN = false :=
  build_not_isNaN _ _ (magBits_le_infBits n d)

/-- A value at most a binary32 magnitude rounds to at most that magnitude. -/
theorem mag_ofRatio_le (neg : Bool) (n d : Nat) (hd : 0 < d) (y : F) (hy : y.isNaN = false) (h : n ≤ y.mag * d) :
    (ofRatio neg n d).mag ≤ y.mag := by
  rw [isNaN_false_iff] at hy
  unfold ofRatio
  rw [mag_build _ _ (magBits_le_infBits n d), mag_eq, magOfBits_le_iff (magBits_le_infBits n d) hy]
  calc magBits n d ≤ magBits (magOfBits y.low31 * d) d := magBits_mono _ _ _ _ hd hd (by
        rw [mag_eq] at h; exact Nat.mul_le_mul_right d h)
    _ = y.low31 := magBits_exact _ _ hy hd

/-- A value at least a binary32 magnitude rounds to at least that magnitude. -/
theorem le_mag_ofRatio (neg : Bool) (n d : Nat) (hd : 0 < d) (y : F) (hy : y.isNaN = false) (h : y.mag * d ≤ n) :
    y.mag ≤ (ofRatio neg n d).mag := by
  rw [isNaN_false_iff] at hy
  unfold ofRatio
  rw [mag_build _ _ (magBits_le_infBits n d), mag_eq, magOfBits_le_iff hy (magBits_le_infBits n d)]
  calc y.low31 = magBits (magOfBits y.low31 * d) d := (magBits_exact _ _ hy hd).symm
    _ ≤ magBits n d := magBits_mono _ _ _ _ hd hd (by rw [mag_eq] at h; exact Nat.mul_le_mul_right d h)

/-- A representable value rounds to itself. -/
theorem mag_ofRatio_eq (neg : Bool) (n d : Nat) (hd : 0 < d) (y : F) (hy : y.isNaN = false) (h : n = y.mag * d) :
    (ofRatio neg n d).mag = y.mag :=
  Nat.le_antisymm (mag_ofRatio_le neg n d hd y hy h.le) (le_mag_ofRatio neg n d hd y hy h.ge)

theorem scaled_ofRatio (neg : Bool) (n d : Nat) :
    (ofRatio neg n d).scaled = if neg then -((ofRatio neg n d).mag : Int) else ((ofRatio neg n d).mag : Int) := by
  unfold scaled; rw [sign_ofRatio]

theorem scaled_natAbs (x : F) : x.scaled.natAbs = x.mag := by
  unfold scaled; split_ifs <;> simp

theorem scaled_nonneg_of_sign {x : F} (h : x.sign = false) : x.scaled = x.mag := by simp [scaled, h]

theorem scaled_of_sign_true {x : F} (h : x.sign = true) : x.scaled = -(x.mag : Int) := by simp [scaled, h]

/-! ### Signed rounding -/

/-- The rounding of a signed fraction `z / d`: what every operator returns when its exact result is `z / d`. -/
theorem scaled_ofRatio_le {neg : Bool} {z : Int} {d : Nat} (hd : 0 < d) (hz : z = if neg then -(z.natAbs : Int) else z.natAbs)
    (y : F) (hy : y.isNaN = false) (h : z ≤ y.scaled * d) : (ofRatio neg z.natAbs d).scaled ≤ y.scaled := by
  rw [scaled_ofRatio]
  have hdi : (0 : Int) < d := by exact_mod_cast hd
  cases neg
  · simp only [Bool.false_eq_true, if_false] at hz ⊢
    have hy0 : 0 ≤ y.scaled := by
      by_contra hc
      have : y.scaled * d < 0 := mul_neg_of_neg_of_pos (by omega) hdi
      omega
    have hys : y.scaled = y.mag := by have := scaled_natAbs y; omega
    rw [hys] at h ⊢
    have : z.natAbs ≤ y.mag * d := by omega
    exact_mod_cast mag_ofRatio_le false _ _ hd y hy this
  · simp only [if_true] at hz ⊢
    by_cases hy0 : 0 ≤ y.scaled
    · omega
    · have hys : y.scaled = -(y.mag : Int) := by have := scaled_natAbs y; omega
      rw [hys, Int.neg_mul] at h
      rw [hys]
      have : y.mag * d ≤ z.natAbs := by omega
      have := le_mag_ofRatio true _ _ hd y hy this
      omega

theorem le_scaled_ofRatio {neg : Bool} {z : Int} {d : Nat} (hd : 0 < d) (hz : z = if neg then -(z.natAbs : Int) else z.natAbs)
    (y : F) (hy : y.isNaN = false) (h : y.scaled * d ≤ z) : y.scaled ≤ (ofRatio neg z.natAbs d).scaled := by
  rw [scaled_ofRatio]
  have hdi : (0 : Int) < d := by exact_mod_cast hd
  cases neg
  · simp only [Bool.false_eq_true, if_false] at hz ⊢
    by_cases hy0 : 0 ≤ y.scaled
    · have hys : y.scaled = y.mag := by have := scaled_natAbs y; omega
      rw [hys] at h ⊢
      have : y.mag * d ≤ z.natAbs := by omega
      exact_mod_cast le_mag_ofRatio false _ _ hd y hy this
    · omega
  · simp only [if_true] at hz ⊢
    have hy0 : y.scaled ≤ 0 := by
      by_contra hc
      have : 0 < y.scaled * d := mul_pos (by omega) hdi
      omega
    have hys : y.scaled = -(y.mag : Int) := by have := scaled_natAbs y; omega
    rw [hys, Int.neg_mul] at h
    rw [hys]
    have : z.natAbs ≤ y.mag * d := by omega
    have := mag_ofRatio_le true _ _ hd y hy this
    omega

/-! ### Order -/

theorem le_iff {x y : F} : x.le y = true ↔ x.isNaN = false ∧ y.isNaN = false ∧ x.scaled ≤ y.scaled := by
  simp [le, and_assoc]

theorem lt_iff {x y : F} : x.lt y = true ↔ x.isNaN = false ∧ y.isNaN = false ∧ x.scaled < y.scaled := by
  simp [lt, and_assoc]

theorem lt_false_iff {x y : F} (hx : x.isNaN = false) (hy : y.isNaN = false) :
    x.lt y = false ↔ y.scaled ≤ x.scaled := by
  rw [← Bool.not_eq_true, lt_iff]
  simp [hx, hy]

theorem le_false_iff {x y : F} (hx : x.isNaN = false) (hy : y.isNaN = false) :
    x.le y = false ↔ y.scaled < x.scaled := by
  rw [← Bool.not_eq_true, le_iff]
  simp [hx, hy]

theorem within_iff {lo hi x : F} :
    within lo hi x = true ↔
      lo.isNaN = false ∧ hi.isNaN = false ∧ x.isNaN = false ∧ lo.scaled ≤ x.scaled ∧ x.scaled ≤ hi.scaled := by
  simp only [within, Bool.and_eq_true, le_iff]
  constructor
  · rintro ⟨⟨a, b, c⟩, -, d, e⟩; exact ⟨a, d, b, c, e⟩
  · rintro ⟨a, d, b, c, e⟩; exact ⟨⟨a, b, c⟩, b, d, e⟩

theorem mag_lt_inf_iff (x : F) : x.isFinite = true ↔ x.mag < 2 ^ 277 := by
  have h1 : (2 : Nat) ^ 277 = magOfBits infBits := by decide +kernel
  rw [isFinite_iff, mag_eq, h1]
  by_cases h : x.low31 ≤ infBits
  · rw [magOfBits_lt_iff h le_rfl]
  · constructor
    · intro h2; omega
    · intro h2
      exfalso
      have h3 : x.low31 < 2 ^ 31 := Nat.mod_lt _ (by norm_num)
      have h4 : infBits = 255 * 2 ^ 23 := rfl
      have h5 : x.low31 / 2 ^ 23 = 255 := by omega
      unfold magOfBits at h2
      rw [if_neg (by omega), h5] at h2
      simp only [infBits] at h2
      norm_num at h2
      omega

/-- A value between two finite ones is finite. -/
theorem isFinite_of_scaled {x lo hi : F} (hlo : lo.isFinite = true) (hhi : hi.isFinite = true)
    (h1 : lo.scaled ≤ x.scaled) (h2 : x.scaled ≤ hi.scaled) : x.isFinite = true := by
  rw [mag_lt_inf_iff] at *
  have a := scaled_natAbs x
  have b := scaled_natAbs lo
  have c := scaled_natAbs hi
  omega

theorem isFinite_of_within {lo hi x : F} (hlo : lo.isFinite = true) (hhi : hi.isFinite = true)
    (h : within lo hi x = true) : x.isFinite = true := by
  rw [within_iff] at h
  exact isFinite_of_scaled hlo hhi h.2.2.2.1 h.2.2.2.2

/-! ### Negation and absolute value -/

theorem neg_toNat (x : F) :
    x.neg.bits.toNat = if x.sign then x.bits.toNat - 2 ^ 31 else x.bits.toNat + 2 ^ 31 := by
  have h1 := x.bits_lt
  unfold neg sign
  rw [BitVec.toNat_xor]
  have h2 : (0x80000000#32).toNat = 2 ^ 31 := by decide
  rw [h2]
  by_cases h : 2 ^ 31 ≤ x.bits.toNat
  · rw [if_pos (by simpa using h)]
    obtain ⟨k, hk⟩ := Nat.exists_eq_add_of_le h
    have hk' : k < 2 ^ 31 := by omega
    rw [hk, show 2 ^ 31 + k = 2 ^ 31 * 1 + k by ring, Nat.two_pow_add_eq_or_of_lt hk' 1]
    apply Nat.eq_of_testBit_eq
    intro i
    simp only [Nat.testBit_xor, Nat.testBit_or, mul_one, Nat.testBit_two_pow]
    have hsub : (2 ^ 31 ||| k) - 2 ^ 31 = k := by
      have := Nat.two_pow_add_eq_or_of_lt hk' 1
      simp only [mul_one] at this
      omega
    rw [hsub]
    by_cases hi : 31 = i
    · subst hi
      simp [Nat.testBit_lt_two_pow hk']
    · simp [hi]
  · rw [if_neg (by simpa using h)]
    have hk' : x.bits.toNat < 2 ^ 31 := by omega
    rw [show x.bits.toNat + 2 ^ 31 = 2 ^ 31 * 1 + x.bits.toNat by ring, Nat.two_pow_add_eq_or_of_lt hk' 1]
    apply Nat.eq_of_testBit_eq
    intro i
    simp only [Nat.testBit_xor, Nat.testBit_or, mul_one, Nat.testBit_two_pow]
    by_cases hi : 31 = i
    · subst hi; simp [Nat.testBit_lt_two_pow hk']
    · simp [hi]

theorem low31_neg (x : F) : x.neg.low31 = x.low31 := by
  have h1 := x.bits_lt
  unfold low31
  rw [neg_toNat]
  unfold sign
  split_ifs with h
  · have : 2 ^ 31 ≤ x.bits.toNat := by simpa using h
    omega
  · omega

theorem sign_neg (x : F) : x.neg.sign = !x.sign := by
  have h1 := x.bits_lt
  have h2 := neg_toNat x
  unfold sign at *
  rw [Bool.eq_iff_iff]
  simp only [decide_eq_true_eq, Bool.not_eq_true', decide_eq_false_iff_not]
  by_cases h : 2 ^ 31 ≤ x.bits.toNat
  · rw [if_pos (by simpa using h)] at h2
    omega
  · rw [if_neg (by simpa using h)] at h2
    omega

theorem mag_neg (x : F) : x.neg.mag = x.mag := by rw [mag_eq, mag_eq, low31_neg]

theorem scaled_neg (x : F) : x.neg.scaled = -x.scaled := by
  unfold scaled
  rw [sign_neg, mag_neg]
  cases x.sign <;> simp

theorem isNaN_neg (x : F) : x.neg.isNaN = x.isNaN := by
  rw [Bool.eq_iff_iff, isNaN_iff, isNaN_iff, low31_neg]

theorem isInf_neg (x : F) : x.neg.isInf = x.isInf := by
  rw [Bool.eq_iff_iff, isInf_iff, isInf_iff, low31_neg]

theorem isFinite_neg (x : F) : x.neg.isFinite = x.isFinite := by
  rw [Bool.eq_iff_iff, isFinite_iff, isFinite_iff, low31_neg]

theorem abs_toNat (x : F) : x.abs.bits.toNat = x.low31 := by
  unfold abs low31
  rw [BitVec.toNat_and, show (0x7FFFFFFF#32).toNat = 2 ^ 31 - 1 by decide, Nat.and_two_pow_sub_one_eq_mod]

theorem low31_abs (x : F) : x.abs.low31 = x.low31 := by
  show x.abs.bits.toNat % 2 ^ 31 = x.low31
  rw [abs_toNat]; unfold low31; omega

theorem sign_abs (x : F) : x.abs.sign = false := by
  have : x.low31 < 2 ^ 31 := Nat.mod_lt _ (by norm_num)
  unfold sign; rw [abs_toNat]; simp; omega

theorem mag_abs (x : F) : x.abs.mag = x.mag := by rw [mag_eq, mag_eq, low31_abs]

theorem scaled_abs (x : F) : x.abs.scaled = x.mag := by
  rw [scaled_nonneg_of_sign (sign_abs x), mag_abs]

theorem isNaN_abs (x : F) : x.abs.isNaN = x.isNaN := by
  rw [Bool.eq_iff_iff, isNaN_iff, isNaN_iff, low31_abs]

theorem isFinite_abs (x : F) : x.abs.isFinite = x.isFinite := by
  rw [Bool.eq_iff_iff, isFinite_iff, isFinite_iff, low31_abs]

/-! ### The operators on finite operands: their exact result, and bounds carried through the rounding -/

theorem signedZero_scaled (b : Bool) : (signedZero b).scaled = 0 := by cases b <;> decide

theorem signedZero_not_isNaN (b : Bool) : (signedZero b).isNaN = false := by cases b <;> decide

theorem add_finite {a b : F} (ha : a.isFinite = true) (hb : b.isFinite = true) :
    a.add b = ofSum (a.scaled + b.scaled) (a.sign && b.sign) := by
  unfold add
  rw [isFinite_not_isNaN ha, isFinite_not_isNaN hb, isFinite_not_isInf ha, isFinite_not_isInf hb]
  simp

theorem sub_finite {a b : F} (ha : a.isFinite = true) (hb : b.isFinite = true) :
    a.sub b = ofSum (a.scaled - b.scaled) (a.sign && !b.sign) := by
  unfold sub
  rw [add_finite ha (by rw [isFinite_neg]; exact hb), scaled_neg, sign_neg, Int.sub_eq_add_neg]

theorem mul_finite {a b : F} (ha : a.isFinite = true) (hb : b.isFinite = true) :
    a.mul b = ofRatio (a.sign != b.sign) (a.mag * b.mag) unit := by
  unfold mul
  rw [isFinite_not_isNaN ha, isFinite_not_isNaN hb, isFinite_not_isInf ha, isFinite_not_isInf hb]
  simp

theorem div_finite {a b : F} (ha : a.isFinite = true) (hb : b.isFinite = true) (h0 : b.mag ≠ 0) :
    a.div b = ofRatio (a.sign != b.sign) (a.mag * unit) b.mag := by
  unfold div
  rw [isFinite_not_isNaN ha, isFinite_not_isNaN hb, isFinite_not_isInf ha, isFinite_not_isInf hb]
  simp [h0]

theorem ofSum_not_isNaN (z : Int) (b : Bool) : (ofSum z b).isNaN = false := by
  unfold ofSum
  split_ifs
  · exact signedZero_not_isNaN b
  · exact ofRatio_not_isNaN _ _ _

theorem ofSum_scaled_le {z : Int} {b : Bool} (y : F) (hy : y.isNaN = false) (h : z ≤ y.scaled) :
    (ofSum z b).scaled ≤ y.scaled := by
  unfold ofSum
  split_ifs with h0
  · rw [signedZero_scaled]; omega
  · apply scaled_ofRatio_le one_pos _ y hy (by simpa using h)
    by_cases hz : z < 0
    · rw [if_pos (by simpa using hz)]; omega
    · rw [if_neg (by simpa using hz)]; omega

theorem le_ofSum_scaled {z : Int} {b : Bool} (y : F) (hy : y.isNaN = false) (h : y.scaled ≤ z) :
    y.scaled ≤ (ofSum z b).scaled := by
  unfold ofSum
  split_ifs with h0
  · rw [signedZero_scaled]; omega
  · apply le_scaled_ofRatio one_pos _ y hy (by simpa using h)
    by_cases hz : z < 0
    · rw [if_pos (by simpa using hz)]; omega
    · rw [if_neg (by simpa using hz)]; omega

theorem add_scaled_le {a b : F} (ha : a.isFinite = true) (hb : b.isFinite = true) (y : F) (hy : y.isNaN = false)
    (h : a.scaled + b.scaled ≤ y.scaled) : (a.add b).scaled ≤ y.scaled := by
  rw [add_finite ha hb]; exact ofSum_scaled_le y hy h

theorem le_add_scaled {a b : F} (ha : a.isFinite = true) (hb : b.isFinite = true) (y : F) (hy : y.isNaN = false)
    (h : y.scaled ≤ a.scaled + b.scaled) : y.scaled ≤ (a.add b).scaled := by
  rw [add_finite ha hb]; exact le_ofSum_scaled y hy h

theorem add_not_isNaN {a b : F} (ha : a.isFinite = true) (hb : b.isFinite = true) : (a.add b).isNaN = false := by
  rw [add_finite ha hb]; exact ofSum_not_isNaN _ _

theorem sub_scaled_le {a b : F} (ha : a.isFinite = true) (hb : b.isFinite = true) (y : F) (hy : y.isNaN = false)
    (h : a.scaled - b.scaled ≤ y.scaled) : (a.sub b).scaled ≤ y.scaled := by
  rw [sub_finite ha hb]; exact ofSum_scaled_le y hy h

theorem le_sub_scaled {a b : F} (ha : a.isFinite = true) (hb : b.isFinite = true) (y : F) (hy : y.isNaN = false)
    (h : y.scaled ≤ a.scaled - b.scaled) : y.scaled ≤ (a.sub b).scaled := by
  rw [sub_finite ha hb]; exact le_ofSum_scaled y hy h

theorem sub_not_isNaN {a b : F} (ha : a.isFinite = true) (hb : b.isFinite = true) : (a.sub b).isNaN = false := by
  rw [sub_finite ha hb]; exact ofSum_not_isNaN _ _

theorem unit_pos : 0 < unit := by unfold unit; positivity

/-- The exact product is `a.scaled * b.scaled` in units of 2^-298. -/
theorem mul_eq_ofRatio {a b : F} (ha : a.isFinite = true) (hb : b.isFinite = true) :
    a.mul b = ofRatio (a.sign != b.sign) (a.scaled * b.scaled).natAbs unit := by
  rw [mul_finite ha hb, Int.natAbs_mul, scaled_natAbs, scaled_natAbs]

theorem mul_sign_form (a b : F) :
    a.scaled * b.scaled =
      if (a.sign != b.sign) = true then -((a.scaled * b.scaled).natAbs : Int) else ((a.scaled * b.scaled).natAbs : Int) := by
  rw [Int.natAbs_mul, scaled_natAbs, scaled_natAbs]
  unfold scaled
  cases a.sign <;> cases b.sign <;> simp

theorem mul_scaled_le {a b : F} (ha : a.isFinite = true) (hb : b.isFinite = true) (y : F) (hy : y.isNaN = false)
    (h : a.scaled * b.scaled ≤ y.scaled * unit) : (a.mul b).scaled ≤ y.scaled := by
  rw [mul_eq_ofRatio ha hb]
  exact scaled_ofRatio_le unit_pos (mul_sign_form a b) y hy h

theorem le_mul_scaled {a b : F} (ha : a.isFinite = true) (hb : b.isFinite = true) (y : F) (hy : y.isNaN = false)
    (h : y.scaled * unit ≤ a.scaled * b.scaled) : y.scaled ≤ (a.mul b).scaled := by
  rw [mul_eq_ofRatio ha hb]
  exact le_scaled_ofRatio unit_pos (mul_sign_form a b) y hy h

theorem mul_not_isNaN {a b : F} (ha : a.isFinite = true) (hb : b.isFinite = true) : (a.mul b).isNaN = false := by
  rw [mul_finite ha hb]; exact ofRatio_not_isNaN _ _ _

theorem div_eq_ofRatio {a b : F} (ha : a.isFinite = true) (hb : b.isFinite = true) (h0 : 0 < b.scaled) :
    a.div b = ofRatio a.sign (a.scaled * unit).natAbs b.mag := by
  have hs : b.sign = false := by
    by_contra hc
    have := scaled_of_sign_true (x := b) (by simpa using hc)
    omega
  have hm : b.mag ≠ 0 := by have := scaled_nonneg_of_sign hs; omega
  rw [div_finite ha hb hm, hs, Int.natAbs_mul, scaled_natAbs]
  cases a.sign <;> rfl

theorem div_sign_form (a : F) :
    a.scaled * (unit : Int) =
      if a.sign = true then -((a.scaled * (unit : Int)).natAbs : Int) else ((a.scaled * (unit : Int)).natAbs : Int) := by
  rw [Int.natAbs_mul, scaled_natAbs]
  unfold scaled
  cases a.sign <;> simp

theorem mag_of_scaled_pos {b : F} (h0 : 0 < b.scaled) : (b.mag : Int) = b.scaled := by
  have := scaled_natAbs b; omega

theorem div_scaled_le {a b : F} (ha : a.isFinite = true) (hb : b.isFinite = true) (h0 : 0 < b.scaled) (y : F)
    (hy : y.isNaN = false) (h : a.scaled * unit ≤ y.scaled * b.scaled) : (a.div b).scaled ≤ y.scaled := by
  rw [div_eq_ofRatio ha hb h0]
  have hm := mag_of_scaled_pos h0
  exact scaled_ofRatio_le (by omega) (div_sign_form a) y hy (by rw [hm]; exact h)

theorem le_div_scaled {a b : F} (ha : a.isFinite = true) (hb : b.isFinite = true) (h0 : 0 < b.scaled) (y : F)
    (hy : y.isNaN = false) (h : y.scaled * b.scaled ≤ a.scaled * unit) : y.scaled ≤ (a.div b).scaled := by
  rw [div_eq_ofRatio ha hb h0]
  have hm := mag_of_scaled_pos h0
  exact le_scaled_ofRatio (by omega) (div_sign_form a) y hy (by rw [hm]; exact h)

theorem div_not_isNaN {a b : F} (ha : a.isFinite = true) (hb : b.isFinite = true) (h0 : 0 < b.scaled) :
    (a.div b).isNaN = false := by
  rw [div_eq_ofRatio ha hb h0]; exact ofRatio_not_isNaN _ _ _

/-! ### The record `binary32` (R12), field by field, and the helpers of R15 and R16 over it -/

@[simp] theorem binary32_add : binary32.add = F.add := rfl
@[simp] theorem binary32_sub : binary32.sub = F.sub := rfl
@[simp] theorem binary32_mul : binary32.mul = F.mul := rfl
@[simp] theorem binary32_div : binary32.div = F.div := rfl
@[simp] theorem binary32_abs : binary32.abs = F.abs := rfl
@[simp] theorem binary32_lt : binary32.lt = F.lt := rfl
@[simp] theorem binary32_le : binary32.le = F.le := rfl
@[simp] theorem binary32_floor : binary32.floor = F.floor := rfl
@[simp] theorem binary32_itof : binary32.itof = F.itof := rfl
@[simp] theorem binary32_lit : binary32.lit = F.ofLit := rfl
@[simp] theorem binary32_ofData (d : Word) : binary32.ofData d = ⟨d⟩ := rfl
@[simp] theorem binary32_toData (x : F) : binary32.toData x = x.bits := rfl
@[simp] theorem binary32_clamp (x lo hi : F) : binary32.clamp x lo hi = x.clamp lo hi := rfl
@[simp] theorem binary32_clampUnit (x : F) : binary32.clampUnit x = x.clamp F.zero F.one := rfl
@[simp] theorem binary32_frac (x : F) : binary32.frac x = x.frac := rfl
@[simp] theorem binary32_wrap (x : F) : binary32.wrap x = x.wrap := rfl
@[simp] theorem binary32_lerp (a b t : F) : binary32.lerp a b t = F.lerp a b t := rfl

theorem clamp_eq (x lo hi : F) : x.clamp lo hi = if x.lt lo then lo else if hi.lt x then hi else x := rfl
theorem frac_eq (x : F) : x.frac = if one.le (x.sub (itof x.floor)) then zero else x.sub (itof x.floor) := rfl
theorem wrap_eq (x : F) : x.wrap = if one.le x then x.sub one else x := rfl
theorem lerp_eq (a b t : F) : lerp a b t = a.add (t.mul (b.sub a)) := rfl

@[simp] theorem ofLit_zero : ofLit .zero = zero := rfl
@[simp] theorem ofLit_quarter : ofLit .quarter = quarter := rfl
@[simp] theorem ofLit_half : ofLit .half = half := rfl
@[simp] theorem ofLit_one : ofLit .one = one := rfl
@[simp] theorem ofLit_minusOne : ofLit .minusOne = minusOne := rfl
@[simp] theorem ofLit_two : ofLit .two = two := rfl
@[simp] theorem ofLit_four : ofLit .four = four := rfl
@[simp] theorem ofLit_seven : ofLit .seven = seven := rfl
@[simp] theorem ofLit_twelve : ofLit .twelve = twelve := rfl
@[simp] theorem ofLit_c255 : ofLit .c255 = c255 := rfl
@[simp] theorem ofLit_c2048 : ofLit .c2048 = c2048 := rfl
@[simp] theorem ofLit_milli : ofLit .milli = milli := rfl
@[simp] theorem ofLit_a4Hz : ofLit .a4Hz = Config.a4Hz := rfl
@[simp] theorem ofLit_pwMin : ofLit .pwMin = Config.pwMin := rfl
@[simp] theorem ofLit_pwMax : ofLit .pwMax = Config.pwMax := rfl
@[simp] theorem ofLit_cutMin : ofLit .cutMin = Config.cutMin := rfl
@[simp] theorem ofLit_cutMax : ofLit .cutMax = Config.cutMax := rfl
@[simp] theorem ofLit_lfoMin : ofLit .lfoMin = Config.lfoMin := rfl
@[simp] theorem ofLit_lfoMax : ofLit .lfoMax = Config.lfoMax := rfl
@[simp] theorem ofLit_resScale : ofLit .resScale = Config.resScale := rfl
@[simp] theorem ofLit_driveGain : ofLit .driveGain = Config.driveGain := rfl
@[simp] theorem ofLit_pitchDepth : ofLit .pitchDepth = Config.pitchDepth := rfl
@[simp] theorem ofLit_lfoFltDepth : ofLit .lfoFltDepth = Config.lfoFltDepth := rfl
@[simp] theorem ofLit_cutModScale : ofLit .cutModScale = Config.cutModScale := rfl
@[simp] theorem ofLit_twoPi : ofLit .twoPi = Config.twoPi := rfl
@[simp] theorem ofLit_fsReset : ofLit .fsReset = Config.fsResetDefault := rfl
@[simp] theorem ofLit_fsMin : ofLit .fsMin = Config.fsMinDefault := rfl
@[simp] theorem ofLit_fsMax : ofLit .fsMax = Config.fsMaxDefault := rfl
@[simp] theorem ofLit_ssUnit : ofLit .ssUnit = Config.ssUnitDefault := rfl
@[simp] theorem ofLit_fcMax : ofLit .fcMax = Config.fcMaxDefault := rfl
@[simp] theorem ofLit_driveMax : ofLit .driveMax = Config.driveMaxDefault := rfl
@[simp] theorem ofLit_tMin : ofLit .tMin = Config.tMinDefault := rfl
@[simp] theorem ofLit_tMax : ofLit .tMax = Config.tMaxDefault := rfl
@[simp] theorem ofLit_bioCutBase : ofLit .bioCutBase = Config.bioCutBaseDefault := rfl
@[simp] theorem ofLit_bioCutSpan : ofLit .bioCutSpan = Config.bioCutSpanDefault := rfl
@[simp] theorem ofLit_velMax : ofLit .velMax = Config.velMaxDefault := rfl
@[simp] theorem ofLit_g1 : ofLit .g1 = Config.g1Default := rfl
@[simp] theorem ofLit_g2 : ofLit .g2 = Config.g2Default := rfl
@[simp] theorem ofLit_g3 : ofLit .g3 = Config.g3Default := rfl
@[simp] theorem ofLit_g4 : ofLit .g4 = Config.g4Default := rfl
@[simp] theorem ofLit_cutReset : ofLit .cutReset = Config.cutReset := rfl
@[simp] theorem ofLit_attackReset : ofLit .attackReset = Config.attackReset := rfl
@[simp] theorem ofLit_decayReset : ofLit .decayReset = Config.decayReset := rfl
@[simp] theorem ofLit_sustainReset : ofLit .sustainReset = Config.sustainReset := rfl
@[simp] theorem ofLit_releaseReset : ofLit .releaseReset = Config.releaseReset := rfl

/-! ### Clamping (R15) -/

theorem clamp_not_isNaN {x lo hi : F} (hx : x.isNaN = false) (hlo : lo.isNaN = false) (hhi : hi.isNaN = false) :
    (x.clamp lo hi).isNaN = false := by
  rw [clamp_eq]; split_ifs <;> assumption

/-- A clamped value lies in the domain. -/
theorem clamp_within {x lo hi : F} (hx : x.isNaN = false) (h : lo.le hi = true) : within lo hi (x.clamp lo hi) = true := by
  rw [le_iff] at h
  obtain ⟨h1, h2, h3⟩ := h
  rw [within_iff]
  refine ⟨h1, h2, clamp_not_isNaN hx h1 h2, ?_⟩
  rw [clamp_eq]
  split_ifs with a b
  · exact ⟨le_rfl, h3⟩
  · exact ⟨h3, le_rfl⟩
  · rw [Bool.not_eq_true] at a b
    exact ⟨(lt_false_iff hx h1).1 a, (lt_false_iff h2 hx).1 b⟩

/-- A value of the domain is left as it is. -/
theorem clamp_of_within {x lo hi : F} (h : within lo hi x = true) : x.clamp lo hi = x := by
  rw [within_iff] at h
  obtain ⟨h1, h2, hx, a, b⟩ := h
  rw [clamp_eq]
  rw [(lt_false_iff hx h1).2 a, (lt_false_iff h2 hx).2 b]
  simp

/-- Clamping twice is clamping once. -/
theorem clamp_clamp {x lo hi : F} (hx : x.isNaN = false) (h : lo.le hi = true) :
    (x.clamp lo hi).clamp lo hi = x.clamp lo hi := clamp_of_within (clamp_within hx h)

end F

end Sys2Proof
end

