-- ==== Sys2Proof/Laws/State.lean ====
section
/-! SUPPORT. One lemma per field for each update of the state, and what each update does to a voice. True by unfolding; tagged for
simp, so that no later proof unfolds a record update. -/

namespace Sys2Proof

namespace Machine

variable {α : Type}

/-! ### The voices -/

@[simp] theorem mapVoices_get (f : VoiceOf α → VoiceOf α) (vs : Vector (VoiceOf α) 16) (i : Nat) (h : i < 16) :
    (mapVoices f vs)[i] = f vs[i] := by
  simp [mapVoices, Vector.getElem_mk]

@[simp] theorem updateVoice_get_same (i : Fin 16) (f : VoiceOf α → VoiceOf α) (vs : Vector (VoiceOf α) 16) :
    (updateVoice i f vs)[(i : Nat)] = f vs[(i : Nat)] := by
  simp [updateVoice]

theorem updateVoice_get_other (i : Fin 16) (f : VoiceOf α → VoiceOf α) (vs : Vector (VoiceOf α) 16) (j : Nat) (h : j < 16)
    (hne : (i : Nat) ≠ j) : (updateVoice i f vs)[j] = vs[j] := by
  simp [updateVoice, hne]

theorem mem_voiceIndices (i : Fin 16) : i ∈ voiceIndices := by
  revert i; decide

theorem mapVoices_congr (f g : VoiceOf α → VoiceOf α) (vs : Vector (VoiceOf α) 16) (h : ∀ i : Fin 16, f vs[i] = g vs[i]) :
    mapVoices f vs = mapVoices g vs := by
  ext i hi
  rw [mapVoices_get, mapVoices_get]
  exact h ⟨i, hi⟩

/-! ### Updates that are one record update -/

@[simp] theorem emit_params (l r : α) (s : State.Of α) : (emit l r s).params = s.params := rfl
@[simp] theorem emit_sampleRate (l r : α) (s : State.Of α) : (emit l r s).sampleRate = s.sampleRate := rfl
@[simp] theorem emit_lfoRetrig (l r : α) (s : State.Of α) : (emit l r s).lfoRetrig = s.lfoRetrig := rfl
@[simp] theorem emit_cmdErr (l r : α) (s : State.Of α) : (emit l r s).cmdErr = s.cmdErr := rfl
@[simp] theorem emit_voices (l r : α) (s : State.Of α) : (emit l r s).voices = s.voices := rfl
@[simp] theorem emit_frames (l r : α) (s : State.Of α) : (emit l r s).frames = s.frames ++ [(l, r)] := rfl
@[simp] theorem emit_responses (l r : α) (s : State.Of α) : (emit l r s).responses = s.responses := rfl
@[simp] theorem emit_port (l r : α) (s : State.Of α) : (emit l r s).port = s.port := rfl
@[simp] theorem emit_draws (l r : α) (s : State.Of α) : (emit l r s).draws = s.draws := rfl

@[simp] theorem respond_params (d : Word) (s : State.Of α) : (respond d s).params = s.params := rfl
@[simp] theorem respond_sampleRate (d : Word) (s : State.Of α) : (respond d s).sampleRate = s.sampleRate := rfl
@[simp] theorem respond_lfoRetrig (d : Word) (s : State.Of α) : (respond d s).lfoRetrig = s.lfoRetrig := rfl
@[simp] theorem respond_cmdErr (d : Word) (s : State.Of α) : (respond d s).cmdErr = s.cmdErr := rfl
@[simp] theorem respond_voices (d : Word) (s : State.Of α) : (respond d s).voices = s.voices := rfl
@[simp] theorem respond_frames (d : Word) (s : State.Of α) : (respond d s).frames = s.frames := rfl
@[simp] theorem respond_responses (d : Word) (s : State.Of α) : (respond d s).responses = s.responses ++ [d] := rfl
@[simp] theorem respond_port (d : Word) (s : State.Of α) : (respond d s).port = s.port := rfl
@[simp] theorem respond_draws (d : Word) (s : State.Of α) : (respond d s).draws = s.draws := rfl

@[simp] theorem setParam_params {β : Type} (x : β) (store : ParamsOf α → β → ParamsOf α) (apply : VoiceOf α → β → VoiceOf α) (s : State.Of α) : (setParam x store apply s).params = store s.params x := rfl
@[simp] theorem setParam_sampleRate {β : Type} (x : β) (store : ParamsOf α → β → ParamsOf α) (apply : VoiceOf α → β → VoiceOf α) (s : State.Of α) : (setParam x store apply s).sampleRate = s.sampleRate := rfl
@[simp] theorem setParam_lfoRetrig {β : Type} (x : β) (store : ParamsOf α → β → ParamsOf α) (apply : VoiceOf α → β → VoiceOf α) (s : State.Of α) : (setParam x store apply s).lfoRetrig = s.lfoRetrig := rfl
@[simp] theorem setParam_cmdErr {β : Type} (x : β) (store : ParamsOf α → β → ParamsOf α) (apply : VoiceOf α → β → VoiceOf α) (s : State.Of α) : (setParam x store apply s).cmdErr = s.cmdErr := rfl
@[simp] theorem setParam_voices {β : Type} (x : β) (store : ParamsOf α → β → ParamsOf α) (apply : VoiceOf α → β → VoiceOf α) (s : State.Of α) : (setParam x store apply s).voices = mapVoices (fun v => apply v x) s.voices := rfl
@[simp] theorem setParam_frames {β : Type} (x : β) (store : ParamsOf α → β → ParamsOf α) (apply : VoiceOf α → β → VoiceOf α) (s : State.Of α) : (setParam x store apply s).frames = s.frames := rfl
@[simp] theorem setParam_responses {β : Type} (x : β) (store : ParamsOf α → β → ParamsOf α) (apply : VoiceOf α → β → VoiceOf α) (s : State.Of α) : (setParam x store apply s).responses = s.responses := rfl
@[simp] theorem setParam_port {β : Type} (x : β) (store : ParamsOf α → β → ParamsOf α) (apply : VoiceOf α → β → VoiceOf α) (s : State.Of α) : (setParam x store apply s).port = s.port := rfl
@[simp] theorem setParam_draws {β : Type} (x : β) (store : ParamsOf α → β → ParamsOf α) (apply : VoiceOf α → β → VoiceOf α) (s : State.Of α) : (setParam x store apply s).draws = s.draws := rfl

@[simp] theorem putSampleRate_params (num : Numerics α) (x : α) (s : State.Of α) : (putSampleRate num x s).params = s.params := rfl
@[simp] theorem putSampleRate_sampleRate (num : Numerics α) (x : α) (s : State.Of α) : (putSampleRate num x s).sampleRate = x := rfl
@[simp] theorem putSampleRate_lfoRetrig (num : Numerics α) (x : α) (s : State.Of α) : (putSampleRate num x s).lfoRetrig = s.lfoRetrig := rfl
@[simp] theorem putSampleRate_cmdErr (num : Numerics α) (x : α) (s : State.Of α) : (putSampleRate num x s).cmdErr = s.cmdErr := rfl
@[simp] theorem putSampleRate_voices (num : Numerics α) (x : α) (s : State.Of α) : (putSampleRate num x s).voices = mapVoices (fun v => voiceSetSampleRate num v x) s.voices := rfl
@[simp] theorem putSampleRate_frames (num : Numerics α) (x : α) (s : State.Of α) : (putSampleRate num x s).frames = s.frames := rfl
@[simp] theorem putSampleRate_responses (num : Numerics α) (x : α) (s : State.Of α) : (putSampleRate num x s).responses = s.responses := rfl
@[simp] theorem putSampleRate_port (num : Numerics α) (x : α) (s : State.Of α) : (putSampleRate num x s).port = s.port := rfl
@[simp] theorem putSampleRate_draws (num : Numerics α) (x : α) (s : State.Of α) : (putSampleRate num x s).draws = s.draws := rfl

@[simp] theorem noteOff_params (n : BitVec 7) (s : State.Of α) : (noteOff n s).params = s.params := rfl
@[simp] theorem noteOff_sampleRate (n : BitVec 7) (s : State.Of α) : (noteOff n s).sampleRate = s.sampleRate := rfl
@[simp] theorem noteOff_lfoRetrig (n : BitVec 7) (s : State.Of α) : (noteOff n s).lfoRetrig = s.lfoRetrig := rfl
@[simp] theorem noteOff_cmdErr (n : BitVec 7) (s : State.Of α) : (noteOff n s).cmdErr = s.cmdErr := rfl
@[simp] theorem noteOff_voices (n : BitVec 7) (s : State.Of α) : (noteOff n s).voices = mapVoices (releaseIfNote n) s.voices := rfl
@[simp] theorem noteOff_frames (n : BitVec 7) (s : State.Of α) : (noteOff n s).frames = s.frames := rfl
@[simp] theorem noteOff_responses (n : BitVec 7) (s : State.Of α) : (noteOff n s).responses = s.responses := rfl
@[simp] theorem noteOff_port (n : BitVec 7) (s : State.Of α) : (noteOff n s).port = s.port := rfl
@[simp] theorem noteOff_draws (n : BitVec 7) (s : State.Of α) : (noteOff n s).draws = s.draws := rfl

@[simp] theorem noteOn_params (c : ConfigOf α) (n v : BitVec 7) (s : State.Of α) : (noteOn c n v s).params = s.params := rfl
@[simp] theorem noteOn_sampleRate (c : ConfigOf α) (n v : BitVec 7) (s : State.Of α) : (noteOn c n v s).sampleRate = s.sampleRate := rfl
@[simp] theorem noteOn_lfoRetrig (c : ConfigOf α) (n v : BitVec 7) (s : State.Of α) : (noteOn c n v s).lfoRetrig = s.lfoRetrig := rfl
@[simp] theorem noteOn_cmdErr (c : ConfigOf α) (n v : BitVec 7) (s : State.Of α) : (noteOn c n v s).cmdErr = s.cmdErr := rfl
@[simp] theorem noteOn_voices (c : ConfigOf α) (n v : BitVec 7) (s : State.Of α) : (noteOn c n v s).voices = updateVoice (allocate s)
      (fun w => voiceNoteOn c s.lfoRetrig n v (broadcast c s.params s.sampleRate w)) s.voices := rfl
@[simp] theorem noteOn_frames (c : ConfigOf α) (n v : BitVec 7) (s : State.Of α) : (noteOn c n v s).frames = s.frames := rfl
@[simp] theorem noteOn_responses (c : ConfigOf α) (n v : BitVec 7) (s : State.Of α) : (noteOn c n v s).responses = s.responses := rfl
@[simp] theorem noteOn_port (c : ConfigOf α) (n v : BitVec 7) (s : State.Of α) : (noteOn c n v s).port = s.port := rfl
@[simp] theorem noteOn_draws (c : ConfigOf α) (n v : BitVec 7) (s : State.Of α) : (noteOn c n v s).draws = s.draws := rfl

@[simp] theorem placeWord_params (w : CommandWord) (s : State) : (placeWord w s).params = s.params := rfl
@[simp] theorem placeWord_sampleRate (w : CommandWord) (s : State) : (placeWord w s).sampleRate = s.sampleRate := rfl
@[simp] theorem placeWord_lfoRetrig (w : CommandWord) (s : State) : (placeWord w s).lfoRetrig = s.lfoRetrig := rfl
@[simp] theorem placeWord_cmdErr (w : CommandWord) (s : State) : (placeWord w s).cmdErr = s.cmdErr := rfl
@[simp] theorem placeWord_voices (w : CommandWord) (s : State) : (placeWord w s).voices = s.voices := rfl
@[simp] theorem placeWord_frames (w : CommandWord) (s : State) : (placeWord w s).frames = s.frames := rfl
@[simp] theorem placeWord_responses (w : CommandWord) (s : State) : (placeWord w s).responses = s.responses := rfl
@[simp] theorem placeWord_port (w : CommandWord) (s : State) : (placeWord w s).port = w :: s.port := rfl
@[simp] theorem placeWord_draws (w : CommandWord) (s : State) : (placeWord w s).draws = s.draws := rfl

@[simp] theorem present_params (ws : List CommandWord) (s : State) : (present ws s).params = s.params := rfl
@[simp] theorem present_sampleRate (ws : List CommandWord) (s : State) : (present ws s).sampleRate = s.sampleRate := rfl
@[simp] theorem present_lfoRetrig (ws : List CommandWord) (s : State) : (present ws s).lfoRetrig = s.lfoRetrig := rfl
@[simp] theorem present_cmdErr (ws : List CommandWord) (s : State) : (present ws s).cmdErr = s.cmdErr := rfl
@[simp] theorem present_voices (ws : List CommandWord) (s : State) : (present ws s).voices = s.voices := rfl
@[simp] theorem present_frames (ws : List CommandWord) (s : State) : (present ws s).frames = s.frames := rfl
@[simp] theorem present_responses (ws : List CommandWord) (s : State) : (present ws s).responses = s.responses := rfl
@[simp] theorem present_port (ws : List CommandWord) (s : State) : (present ws s).port = s.port ++ ws := rfl
@[simp] theorem present_draws (ws : List CommandWord) (s : State) : (present ws s).draws = s.draws := rfl

/-! ### Rejection -/

@[simp] theorem reject_params (r : Reject) (s : State.Of α) : (reject r s).params = s.params := by cases r <;> rfl
@[simp] theorem reject_sampleRate (r : Reject) (s : State.Of α) : (reject r s).sampleRate = s.sampleRate := by cases r <;> rfl
@[simp] theorem reject_lfoRetrig (r : Reject) (s : State.Of α) : (reject r s).lfoRetrig = s.lfoRetrig := by cases r <;> rfl
@[simp] theorem reject_cmdErr (r : Reject) (s : State.Of α) : (reject r s).cmdErr = true := by cases r <;> rfl
@[simp] theorem reject_voices (r : Reject) (s : State.Of α) : (reject r s).voices = s.voices := by cases r <;> rfl
@[simp] theorem reject_frames (r : Reject) (s : State.Of α) : (reject r s).frames = s.frames := by cases r <;> rfl
theorem reject_responses (r : Reject) (s : State.Of α) :
    (reject r s).responses = if r = .badRead then s.responses ++ [0#32] else s.responses := by cases r <;> rfl
@[simp] theorem reject_port (r : Reject) (s : State.Of α) : (reject r s).port = s.port := by cases r <;> rfl
@[simp] theorem reject_draws (r : Reject) (s : State.Of α) : (reject r s).draws = s.draws := by cases r <;> rfl

/-- A rejection that is not a read sets `CMDERR` and nothing else (R352). -/
theorem reject_eq (r : Reject) (s : State.Of α) (h : r ≠ .badRead) : reject r s = { s with cmdErr := true } := by
  cases r <;> first | rfl | exact absurd rfl h

/-! ### The port -/

@[simp] theorem takeWord_placeWord (w : CommandWord) (s : State) : takeWord (placeWord w s) = some (w, s) := rfl

/-- The word `withFetchWord` places is the very next one run. -/
theorem step_withFetchWord (s : State) (nbits w : Nat) :
    step (s.withFetchWord nbits w) = runWord (tableWord nbits w) s := rfl

theorem step_nil (s : State) (h : s.port = []) : step s = .next s := by
  simp [step, takeWord, h]

theorem step_cons (s : State) (w : CommandWord) (rest : List CommandWord) (h : s.port = w :: rest) :
    step s = runWord w { s with port := rest } := by
  simp [step, takeWord, h]

end Machine

end Sys2Proof
end

