-- ==== Sys2Proof/Laws/Ops.lean ====
section
/-! SUPPORT. What each shared operation can do, said once: the setters (R290), allocation (R267, R268), the frame loop (R271, R272),
decoding, and the one step. -/

namespace Sys2Proof

namespace Machine

variable {α : Type}

/-! ### Setters -/

theorem withReal_nan (num : Numerics α) (val : F) (conform : α → α) (act : α → State.Of α → State.Of α)
    (s : State.Of α) (h : val.isNaN = true) : withReal num val conform act s = { s with cmdErr := true } := by
  simp [withReal, h, reject]

theorem withReal_real (num : Numerics α) (val : F) (conform : α → α) (act : α → State.Of α → State.Of α)
    (s : State.Of α) (h : val.isNaN = false) :
    withReal num val conform act s = act (conform (num.ofData val.bits)) s := by
  simp [withReal, h]

/-- `setReal` on a number: the register and every voice receive the clamped value (R290). -/
theorem setReal_real (num : Numerics α) (val : F) (lo hi : α) (store : ParamsOf α → α → ParamsOf α)
    (apply : VoiceOf α → α → VoiceOf α) (s : State.Of α) (h : val.isNaN = false) :
    setReal num val lo hi store apply s = setParam (num.clamp (num.ofData val.bits) lo hi) store apply s := by
  simp [setReal, withReal, h]

theorem setReal_nan (num : Numerics α) (val : F) (lo hi : α) (store : ParamsOf α → α → ParamsOf α)
    (apply : VoiceOf α → α → VoiceOf α) (s : State.Of α) (h : val.isNaN = true) :
    setReal num val lo hi store apply s = { s with cmdErr := true } :=
  withReal_nan num val _ _ s h

/-- `setUnit` is `setReal` with the bounds 0 and 1. -/
theorem setUnit_eq (num : Numerics α) (val : F) (store : ParamsOf α → α → ParamsOf α)
    (apply : VoiceOf α → α → VoiceOf α) (s : State.Of α) :
    setUnit num val store apply s = setReal num val (num.lit .zero) (num.lit .one) store apply s := rfl

/-! ### Allocation (R267, R268) -/

/-- The voice taken is the first inactive one, or, when all are active, the steal slot. -/
theorem allocate_cases (s : State.Of α) :
    (active s (allocate s) = false ∧ ∀ j : Fin 16, j < allocate s → active s j = true) ∨
    ((∀ j : Fin 16, active s j = true) ∧ allocate s = Config.stealSlot) := by
  unfold allocate
  cases h : voiceIndices.find? (fun i => !active s i) with
  | none =>
    right
    refine ⟨fun j => ?_, rfl⟩
    have := List.find?_eq_none.1 h j (mem_voiceIndices j)
    simpa using this
  | some k =>
    left
    have hk := List.find?_some h
    refine ⟨by simpa using hk, fun j hj => ?_⟩
    obtain ⟨-, as, bs, hab, hall⟩ := List.find?_eq_some_iff_append.1 h
    have hs : voiceIndices.Pairwise (· < ·) := by decide
    have hmem := mem_voiceIndices j
    rw [hab] at hs hmem
    rcases List.mem_append.1 hmem with hm | hm
    · simpa using hall j hm
    · exfalso
      simp only [Option.getD_some] at hj
      rcases List.mem_cons.1 hm with rfl | hm
      · exact lt_irrefl _ hj
      · have := (List.pairwise_append.1 hs).2.1
        exact lt_asymm hj ((List.pairwise_cons.1 this).1 j hm)

/-! ### The frame loop (R272) -/

/-- One turn of the loop: the voice is active and processed, or nothing happens. -/
theorem frameVoice_cases (c : ConfigOf α) (a : α × State.Of α) (i : Fin 16) :
    (active a.2 i = true ∧ frameVoice c a i =
      (c.num.add a.1 (voiceProcess c a.2.draws a.2.voices[i]).1,
        { a.2 with voices := a.2.voices.set i (voiceProcess c a.2.draws a.2.voices[i]).2.1,
                   draws := (voiceProcess c a.2.draws a.2.voices[i]).2.2 })) ∨
    (active a.2 i = false ∧ frameVoice c a i = a) := by
  unfold frameVoice
  cases h : active a.2 i
  · right; simp
  · left; simp

/-- A property of the state that one turn keeps, the loop keeps. -/
theorem foldl_frameVoice_keeps {P : State.Of α → Prop} (c : ConfigOf α) (is : List (Fin 16))
    (step : ∀ a i, P a.2 → P (frameVoice c a i).2) (a : α × State.Of α) (h : P a.2) :
    P (is.foldl (frameVoice c) a).2 := by
  induction is generalizing a with
  | nil => exact h
  | cons i is ih => exact ih _ (step a i h)

theorem frameSum_keeps {P : State.Of α → Prop} (c : ConfigOf α) (step : ∀ a i, P a.2 → P (frameVoice c a i).2) (s : State.Of α)
    (h : P s) : P (frameSum c s).2 := by
  unfold frameSum
  exact foldl_frameVoice_keeps c voiceIndices step (c.num.lit .zero, s) h

@[simp] theorem frameSum_params (c : ConfigOf α) (s : State.Of α) : (frameSum c s).2.params = s.params := by
  exact frameSum_keeps (P := fun t => t.params = s.params) c
    (fun a i h => by rcases frameVoice_cases c a i with ⟨-, e⟩ | ⟨-, e⟩ <;> rw [e] <;> exact h) s rfl

@[simp] theorem frameSum_sampleRate (c : ConfigOf α) (s : State.Of α) : (frameSum c s).2.sampleRate = s.sampleRate := by
  exact frameSum_keeps (P := fun t => t.sampleRate = s.sampleRate) c
    (fun a i h => by rcases frameVoice_cases c a i with ⟨-, e⟩ | ⟨-, e⟩ <;> rw [e] <;> exact h) s rfl

@[simp] theorem frameSum_lfoRetrig (c : ConfigOf α) (s : State.Of α) : (frameSum c s).2.lfoRetrig = s.lfoRetrig := by
  exact frameSum_keeps (P := fun t => t.lfoRetrig = s.lfoRetrig) c
    (fun a i h => by rcases frameVoice_cases c a i with ⟨-, e⟩ | ⟨-, e⟩ <;> rw [e] <;> exact h) s rfl

@[simp] theorem frameSum_cmdErr (c : ConfigOf α) (s : State.Of α) : (frameSum c s).2.cmdErr = s.cmdErr := by
  exact frameSum_keeps (P := fun t => t.cmdErr = s.cmdErr) c
    (fun a i h => by rcases frameVoice_cases c a i with ⟨-, e⟩ | ⟨-, e⟩ <;> rw [e] <;> exact h) s rfl

@[simp] theorem frameSum_frames (c : ConfigOf α) (s : State.Of α) : (frameSum c s).2.frames = s.frames := by
  exact frameSum_keeps (P := fun t => t.frames = s.frames) c
    (fun a i h => by rcases frameVoice_cases c a i with ⟨-, e⟩ | ⟨-, e⟩ <;> rw [e] <;> exact h) s rfl

@[simp] theorem frameSum_responses (c : ConfigOf α) (s : State.Of α) : (frameSum c s).2.responses = s.responses := by
  exact frameSum_keeps (P := fun t => t.responses = s.responses) c
    (fun a i h => by rcases frameVoice_cases c a i with ⟨-, e⟩ | ⟨-, e⟩ <;> rw [e] <;> exact h) s rfl

@[simp] theorem frameSum_port (c : ConfigOf α) (s : State.Of α) : (frameSum c s).2.port = s.port := by
  exact frameSum_keeps (P := fun t => t.port = s.port) c
    (fun a i h => by rcases frameVoice_cases c a i with ⟨-, e⟩ | ⟨-, e⟩ <;> rw [e] <;> exact h) s rfl

@[simp] theorem frame_params (c : ConfigOf α) (s : State.Of α) : (frame c s).params = s.params := by simp [frame]

@[simp] theorem frame_sampleRate (c : ConfigOf α) (s : State.Of α) : (frame c s).sampleRate = s.sampleRate := by simp [frame]

@[simp] theorem frame_lfoRetrig (c : ConfigOf α) (s : State.Of α) : (frame c s).lfoRetrig = s.lfoRetrig := by simp [frame]

@[simp] theorem frame_cmdErr (c : ConfigOf α) (s : State.Of α) : (frame c s).cmdErr = s.cmdErr := by simp [frame]

@[simp] theorem frame_responses (c : ConfigOf α) (s : State.Of α) : (frame c s).responses = s.responses := by simp [frame]

@[simp] theorem frame_port (c : ConfigOf α) (s : State.Of α) : (frame c s).port = s.port := by simp [frame]

/-- The value both channels of a frame receive (R272, R273). -/
def frameOut (c : ConfigOf α) (s : State.Of α) : α := c.num.mul (frameSum c s).1 s.params.masterVol

theorem frame_frames (c : ConfigOf α) (s : State.Of α) : (frame c s).frames = s.frames ++ [(frameOut c s, frameOut c s)] := by
  simp [frame, frameOut]

@[simp] theorem frame_voices (c : ConfigOf α) (s : State.Of α) : (frame c s).voices = (frameSum c s).2.voices := by simp only [frame, emit_voices]

@[simp] theorem frame_draws (c : ConfigOf α) (s : State.Of α) : (frame c s).draws = (frameSum c s).2.draws := by simp only [frame, emit_draws]

@[simp] theorem processFrames_params (c : ConfigOf α) (n : Nat) (s : State.Of α) : (processFrames c n s).params = s.params := by
  induction n generalizing s with
  | zero => rfl
  | succ n ih => rw [processFrames, ih, frame_params]

@[simp] theorem processFrames_sampleRate (c : ConfigOf α) (n : Nat) (s : State.Of α) : (processFrames c n s).sampleRate = s.sampleRate := by
  induction n generalizing s with
  | zero => rfl
  | succ n ih => rw [processFrames, ih, frame_sampleRate]

@[simp] theorem processFrames_lfoRetrig (c : ConfigOf α) (n : Nat) (s : State.Of α) : (processFrames c n s).lfoRetrig = s.lfoRetrig := by
  induction n generalizing s with
  | zero => rfl
  | succ n ih => rw [processFrames, ih, frame_lfoRetrig]

@[simp] theorem processFrames_cmdErr (c : ConfigOf α) (n : Nat) (s : State.Of α) : (processFrames c n s).cmdErr = s.cmdErr := by
  induction n generalizing s with
  | zero => rfl
  | succ n ih => rw [processFrames, ih, frame_cmdErr]

@[simp] theorem processFrames_responses (c : ConfigOf α) (n : Nat) (s : State.Of α) : (processFrames c n s).responses = s.responses := by
  induction n generalizing s with
  | zero => rfl
  | succ n ih => rw [processFrames, ih, frame_responses]

@[simp] theorem processFrames_port (c : ConfigOf α) (n : Nat) (s : State.Of α) : (processFrames c n s).port = s.port := by
  induction n generalizing s with
  | zero => rfl
  | succ n ih => rw [processFrames, ih, frame_port]

/-- A property one frame keeps, `PROCESS` keeps (R271). -/
theorem processFrames_keeps {P : State.Of α → Prop} (c : ConfigOf α) (step : ∀ s, P s → P (frame c s)) (n : Nat) (s : State.Of α)
    (h : P s) : P (processFrames c n s) := by
  induction n generalizing s with
  | zero => exact h
  | succ n ih => exact ih _ (step s h)

/-! ### What a voice step leaves alone (R251) -/

theorem voiceProcess_stage (c : ConfigOf α) (n : Nat) (v : VoiceOf α) :
    (voiceProcess c n v).2.1.ampEnv = envNext c.num v.ampEnv ∧
      (voiceProcess c n v).2.1.fltEnv = envNext c.num v.fltEnv :=
  ⟨rfl, rfl⟩

/-- A voice step takes the draws of its LFO and its two oscillators (R251). -/
theorem voiceProcess_draws (c : ConfigOf α) (n : Nat) (v : VoiceOf α) :
    (voiceProcess c n v).2.2 = n + voiceDraws v := by
  simp [voiceProcess, lfoProcess, oscProcess, oscSetFrequency, voiceDraws, Nat.add_assoc]

/-! ### Fields of a word (R110) -/

theorem opcOf_wordOf (o : BitVec 8) (r : BitVec 16) (a : BitVec 8) (d : Word) : opcOf (wordOf o r a d) = o := by
  unfold opcOf wordOf
  apply BitVec.eq_of_getLsbD_eq
  intro i hi
  rw [BitVec.getLsbD_extractLsb', BitVec.getLsbD_append, if_neg (by omega), BitVec.getLsbD_append, if_neg (by omega), BitVec.getLsbD_append, if_neg (by omega)]
  rw [show 56 + i - 32 - 8 - 16 = i by omega]
  simp [hi]

theorem rsvOf_wordOf (o : BitVec 8) (r : BitVec 16) (a : BitVec 8) (d : Word) : rsvOf (wordOf o r a d) = r := by
  unfold rsvOf wordOf
  apply BitVec.eq_of_getLsbD_eq
  intro i hi
  rw [BitVec.getLsbD_extractLsb', BitVec.getLsbD_append, if_neg (by omega), BitVec.getLsbD_append, if_neg (by omega), BitVec.getLsbD_append, if_pos (by omega)]
  rw [show 40 + i - 32 - 8 = i by omega]
  simp [hi]

theorem addrOf_wordOf (o : BitVec 8) (r : BitVec 16) (a : BitVec 8) (d : Word) : addrOf (wordOf o r a d) = a := by
  unfold addrOf wordOf
  apply BitVec.eq_of_getLsbD_eq
  intro i hi
  rw [BitVec.getLsbD_extractLsb', BitVec.getLsbD_append, if_neg (by omega), BitVec.getLsbD_append, if_pos (by omega)]
  rw [show 32 + i - 32 = i by omega]
  simp [hi]

theorem dataOf_wordOf (o : BitVec 8) (r : BitVec 16) (a : BitVec 8) (d : Word) : dataOf (wordOf o r a d) = d := by
  unfold dataOf wordOf
  apply BitVec.eq_of_getLsbD_eq
  intro i hi
  rw [BitVec.getLsbD_extractLsb', BitVec.getLsbD_append, if_pos (by omega)]
  rw [show 0 + i = i by omega]
  simp [hi]

/-- A write word reaches step (4) of R120. -/
theorem decode_writeWord (a : BitVec 8) (d : Word) : decode (writeWord a d) = decodeWrite Config.frameCountBitsDefault a d := by
  unfold decode decodeIn writeWord
  rw [rsvOf_wordOf, opcOf_wordOf, addrOf_wordOf, dataOf_wordOf]
  rfl

end Machine

end Sys2Proof
end

