-- ==== Sys2Proof/Laws/Hardware.lean ====
section
/-! SUPPORT. The machine that runs is the parametric one in the default configuration (00_scope.md R8, R12): `exec`, `runWord`,
`step` and `State.reset` are `effect`, `effectWord`, `stepIn` and `resetIn` at `hw`. The fields of `hw`, and what is proved
of the free functions' making: that `bisect` is monotone, bounded, and leaves a monotone function as it is (R18; log 3). -/

namespace Sys2Proof

namespace Machine

/-! ### The machine's configuration (R8) -/

@[simp] theorem hw_num : hw.num = binary32 := rfl
@[simp] theorem hw_g1 : hw.g1 = Config.g1Default := rfl
@[simp] theorem hw_g2 : hw.g2 = Config.g2Default := rfl
@[simp] theorem hw_g3 : hw.g3 = Config.g3Default := rfl
@[simp] theorem hw_g4 : hw.g4 = Config.g4Default := rfl
@[simp] theorem hw_fsMin : hw.fsMin = Config.fsMinDefault := rfl
@[simp] theorem hw_fsMax : hw.fsMax = Config.fsMaxDefault := rfl
@[simp] theorem hw_fsReset : hw.fsReset = Config.fsResetDefault := rfl
@[simp] theorem hw_ssUnit : hw.ssUnit = Config.ssUnitDefault := rfl
@[simp] theorem hw_fcMax : hw.fcMax = Config.fcMaxDefault := rfl
@[simp] theorem hw_driveMax : hw.driveMax = Config.driveMaxDefault := rfl
@[simp] theorem hw_tMin : hw.tMin = Config.tMinDefault := rfl
@[simp] theorem hw_tMax : hw.tMax = Config.tMaxDefault := rfl
@[simp] theorem hw_bioCutBase : hw.bioCutBase = Config.bioCutBaseDefault := rfl
@[simp] theorem hw_bioCutSpan : hw.bioCutSpan = Config.bioCutSpanDefault := rfl
@[simp] theorem hw_velMax : hw.velMax = Config.velMaxDefault := rfl
@[simp] theorem hw_frameCountBits : hw.frameCountBits = Config.frameCountBitsDefault := rfl
@[simp] theorem hw_gPoly : hw.gPoly = quartic binary32 := rfl
@[simp] theorem hw_resetParams : hw.resetParams = defaultParams binary32 := rfl
@[simp] theorem hw_resetLfoRetrig : hw.resetLfoRetrig = false := rfl
@[simp] theorem hw_resetCmdErr : hw.resetCmdErr = false := rfl
@[simp] theorem hw_resetCutoff : hw.resetCutoff = Config.cutReset := rfl
@[simp] theorem hw_fsin : hw.fsin = conformSin Config.rawSin := rfl
@[simp] theorem hw_ftanh : hw.ftanh = conformTanh Config.rawTanh := rfl
@[simp] theorem hw_fexp2 : hw.fexp2 = conformExp2 Config.rawExp2 := rfl
@[simp] theorem hw_gCoef (fc : F) :
    hw.gCoef fc = quartic binary32 Config.g1Default Config.g2Default Config.g3Default Config.g4Default fc := rfl
theorem hw_wtRom (t f n : Nat) : hw.wtRom t f n = bounded (Config.rawRom t f n) := rfl
theorem hw_draw (k : Nat) : hw.draw k = bounded (Config.rawDraw k) := rfl

/-- A free value used as a bounded one lies in [-1, 1], and is unchanged when it does already (logs 5, 6). -/
theorem bounded_within (b : BitVec 32) : F.within F.minusOne F.one (bounded b) = true := by
  unfold bounded
  split
  · assumption
  · decide

theorem bounded_of_within (b : BitVec 32) (h : F.within F.minusOne F.one ⟨b⟩ = true) : bounded b = ⟨b⟩ := by
  simp [bounded, h]

/-! ### The machine is the parametric one at `hw` -/

theorem exec_eq (i : Instr) (s : State) : exec i s = .next (effect hw i s) := by cases i <;> rfl

theorem runWord_eq (w : CommandWord) (s : State) : runWord w s = .next (effectWord hw w s) := by
  show (match decodeIn Config.frameCountBitsDefault w with
    | .ok i => exec i s
    | .error r => .next (reject r s)) = _
  unfold effectWord
  rw [hw_frameCountBits]
  cases decodeIn Config.frameCountBitsDefault w with
  | ok i => exact exec_eq i s
  | error r => rfl

theorem step_eq (s : State) : step s = .next (stepIn hw s) := by
  unfold step takeWord stepIn
  cases s.port with
  | nil => rfl
  | cons w rest => exact runWord_eq w _

theorem reset_eq : State.reset = resetIn hw := rfl

/-- The reject and the setters, once and for all: a command never touches the port. -/
theorem effectWord_cases {α : Type} (c : ConfigOf α) (w : CommandWord) (s : State.Of α) :
    (∃ i, decodeIn c.frameCountBits w = .ok i ∧ effectWord c w s = effect c i s) ∨
    (∃ r, decodeIn c.frameCountBits w = .error r ∧ effectWord c w s = reject r s) := by
  unfold effectWord
  cases decodeIn c.frameCountBits w with
  | ok i => exact .inl ⟨i, rfl, rfl⟩
  | error r => exact .inr ⟨r, rfl, rfl⟩

/-! ### `limit` and `bisect` (R18) -/

theorem limit_le {lo hi : Nat} (v : Nat) (h : lo ≤ hi) : limit lo hi v ≤ hi := by unfold limit; omega

theorem le_limit (lo hi v : Nat) : lo ≤ limit lo hi v := by unfold limit; omega

theorem limit_of_mem {lo hi v : Nat} (h1 : lo ≤ v) (h2 : v ≤ hi) : limit lo hi v = v := by unfold limit; omega

/-- `limit` is monotone in all three arguments. -/
theorem limit_mono {lo hi v lo' hi' v' : Nat} (h1 : lo ≤ lo') (h2 : hi ≤ hi') (h3 : v ≤ v') :
    limit lo hi v ≤ limit lo' hi' v' := by unfold limit; omega

/-- The values lie between the bounds. -/
theorem bisect_mem (raw : Nat → Nat) (n : Nat) : ∀ lo vlo vhi x : Nat, vlo ≤ vhi →
    vlo ≤ bisect raw n lo vlo vhi x ∧ bisect raw n lo vlo vhi x ≤ vhi := by
  induction n with
  | zero => intro lo vlo vhi x h; exact ⟨le_limit _ _ _, limit_le _ h⟩
  | succ n ih =>
    intro lo vlo vhi x h
    have h1 := le_limit vlo vhi (raw (lo + 2 ^ n))
    have h2 := limit_le (raw (lo + 2 ^ n)) h
    unfold bisect
    split
    · exact ⟨(ih lo vlo _ x h1).1, le_trans (ih lo vlo _ x h1).2 h2⟩
    · exact ⟨le_trans h1 (ih _ _ vhi x h2).1, (ih _ _ vhi x h2).2⟩

/-- What `bisect` makes is monotone, whatever `raw` is. -/
theorem bisect_mono (raw : Nat → Nat) (n : Nat) : ∀ lo vlo vhi x y : Nat, vlo ≤ vhi → x ≤ y →
    bisect raw n lo vlo vhi x ≤ bisect raw n lo vlo vhi y := by
  induction n with
  | zero => intro lo vlo vhi x y _ _; exact le_rfl
  | succ n ih =>
    intro lo vlo vhi x y h hxy
    have h1 := le_limit vlo vhi (raw (lo + 2 ^ n))
    have h2 := limit_le (raw (lo + 2 ^ n)) h
    rw [bisect, bisect]
    split_ifs with hx hy
    · exact ih _ _ _ _ _ h1 hxy
    · exact le_trans (bisect_mem raw n lo vlo _ x h1).2 (bisect_mem raw n _ _ vhi y h2).1
    · omega
    · exact ih _ _ _ _ _ h2 hxy

/-- A `raw` that is monotone with values between the bounds on the numbers concerned is left as it is. -/
theorem bisect_eq (raw : Nat → Nat) (n : Nat) : ∀ lo vlo vhi x : Nat, lo ≤ x → x < lo + 2 ^ n →
    (∀ y z, lo ≤ y → y ≤ z → z < lo + 2 ^ n → raw y ≤ raw z) →
    (∀ y, lo ≤ y → y < lo + 2 ^ n → vlo ≤ raw y ∧ raw y ≤ vhi) → bisect raw n lo vlo vhi x = raw x := by
  induction n with
  | zero =>
    intro lo vlo vhi x h1 h2 _ hb
    obtain rfl : x = lo := by omega
    exact limit_of_mem (hb x h1 h2).1 (hb x h1 h2).2
  | succ n ih =>
    intro lo vlo vhi x h1 h2 hm hb
    have hp : 2 ^ (n + 1) = 2 ^ n + 2 ^ n := by rw [pow_succ]; omega
    have hpos : 0 < 2 ^ n := by positivity
    have hmid := hb (lo + 2 ^ n) (by omega) (by omega)
    rw [bisect, limit_of_mem hmid.1 hmid.2]
    split_ifs with hx
    · refine ih _ _ _ _ h1 hx (fun y z a b d => hm y z a b (by omega)) (fun y a b => ⟨(hb y a (by omega)).1, ?_⟩)
      exact hm y _ a (by omega) (by omega)
    · refine ih _ _ _ _ (by omega) (by omega) (fun y z a b d => hm y z (by omega) b (by omega))
        (fun y a b => ⟨?_, (hb y (by omega) (by omega)).2⟩)
      exact hm _ y (by omega) a (by omega)

end Machine

end Sys2Proof
end

