-- ==== Sys2Proof/Laws/PerInstr.lean ====
section
/-! SUPPORT. One lemma per constructor of Instr: the word `encode` writes is selected by the constructor's own row of
the opcode table (30_encoding.md R114). -/

namespace Sys2Proof

namespace Laws

/-- Under the mask of a write row only `OPC`, `RSV` and `ADDR` remain (R114). -/
theorem writeWord_masked (a : BitVec 8) (d : Word) :
    writeWord a d &&& 0xFFFFFFFF00000000#64 = writeWord a 0#32 := by
  apply BitVec.eq_of_getLsbD_eq
  intro i hi
  unfold writeWord wordOf
  rw [BitVec.getLsbD_and, BitVec.getLsbD_append, BitVec.getLsbD_append (y := 0#32)]
  by_cases h : i < 32
  · have : (0xFFFFFFFF00000000#64).getLsbD i = false := by revert h hi; revert i; decide
    rw [if_pos h, if_pos h, this]; simp
  · have : (0xFFFFFFFF00000000#64).getLsbD i = true := by revert h hi; revert i; decide
    rw [if_neg h, if_neg h, this]; simp

theorem writeRow_selects (m : String) (f : Format) (w : CommandWord) (a : BitVec 8) (d : Word)
    (h : writeWord a 0#32 = w) : OpcodeRow.selects ⟨m, f, w, 0xFFFFFFFF00000000#64⟩ (writeWord a d) = true := by
  simp [OpcodeRow.selects, writeWord_masked, h]

namespace RowSelects

/-- The encoded command matches the row of its own mnemonic. -/
def Statement (i : Instr) : Prop :=
  ∃ row ∈ opcodeRows, row.mnemonic = i.mnemonic ∧ row.selects (encode i) = true

theorem nop : Statement (Instr.nop) :=
  ⟨⟨"NOP", .Z, 0x0000000000000000#64, 0xFFFFFFFFFFFFFFFF#64⟩, by decide, rfl, by decide⟩

theorem noteOn (note vel : BitVec 7) : Statement (Instr.noteOn note vel) :=
  ⟨⟨"NOTE_ON", .N, 0x0100000000000000#64, 0xFFFFFFFF00000000#64⟩, by decide, rfl, writeRow_selects _ _ _ _ _ (by decide)⟩

theorem noteOff (note : BitVec 7) : Statement (Instr.noteOff note) :=
  ⟨⟨"NOTE_OFF", .O, 0x0100000100000000#64, 0xFFFFFFFF00000000#64⟩, by decide, rfl, writeRow_selects _ _ _ _ _ (by decide)⟩

theorem process (count : BitVec 32) : Statement (Instr.process count) :=
  ⟨⟨"PROCESS", .C, 0x0100000200000000#64, 0xFFFFFFFF00000000#64⟩, by decide, rfl, writeRow_selects _ _ _ _ _ (by decide)⟩

theorem bioHrv (val : F) : Statement (Instr.bioHrv val) :=
  ⟨⟨"BIO_HRV", .F, 0x0100000300000000#64, 0xFFFFFFFF00000000#64⟩, by decide, rfl, writeRow_selects _ _ _ _ _ (by decide)⟩

theorem bioCoh (val : F) : Statement (Instr.bioCoh val) :=
  ⟨⟨"BIO_COH", .F, 0x0100000400000000#64, 0xFFFFFFFF00000000#64⟩, by decide, rfl, writeRow_selects _ _ _ _ _ (by decide)⟩

theorem setSampleRate (val : F) : Statement (Instr.setSampleRate val) :=
  ⟨⟨"SET_SAMPLE_RATE", .F, 0x0100000800000000#64, 0xFFFFFFFF00000000#64⟩, by decide, rfl, writeRow_selects _ _ _ _ _ (by decide)⟩

theorem setCtrl (bit0 : Bool) : Statement (Instr.setCtrl bit0) :=
  ⟨⟨"SET_CTRL", .B, 0x0100000900000000#64, 0xFFFFFFFF00000000#64⟩, by decide, rfl, writeRow_selects _ _ _ _ _ (by decide)⟩

theorem clrStatus (bit0 : Bool) : Statement (Instr.clrStatus bit0) :=
  ⟨⟨"CLR_STATUS", .B, 0x0100000A00000000#64, 0xFFFFFFFF00000000#64⟩, by decide, rfl, writeRow_selects _ _ _ _ _ (by decide)⟩

theorem setOsc1Wave (kind : WaveformKind) : Statement (Instr.setOsc1Wave kind) :=
  ⟨⟨"SET_OSC1_WAVE", .K, 0x0100001000000000#64, 0xFFFFFFFF00000000#64⟩, by decide, rfl, writeRow_selects _ _ _ _ _ (by decide)⟩

theorem setOsc2Wave (kind : WaveformKind) : Statement (Instr.setOsc2Wave kind) :=
  ⟨⟨"SET_OSC2_WAVE", .K, 0x0100001100000000#64, 0xFFFFFFFF00000000#64⟩, by decide, rfl, writeRow_selects _ _ _ _ _ (by decide)⟩

theorem setOsc1Detune (val : F) : Statement (Instr.setOsc1Detune val) :=
  ⟨⟨"SET_OSC1_DETUNE", .F, 0x0100001200000000#64, 0xFFFFFFFF00000000#64⟩, by decide, rfl, writeRow_selects _ _ _ _ _ (by decide)⟩

theorem setOsc2Detune (val : F) : Statement (Instr.setOsc2Detune val) :=
  ⟨⟨"SET_OSC2_DETUNE", .F, 0x0100001300000000#64, 0xFFFFFFFF00000000#64⟩, by decide, rfl, writeRow_selects _ _ _ _ _ (by decide)⟩

theorem setOsc1Pw (val : F) : Statement (Instr.setOsc1Pw val) :=
  ⟨⟨"SET_OSC1_PW", .F, 0x0100001400000000#64, 0xFFFFFFFF00000000#64⟩, by decide, rfl, writeRow_selects _ _ _ _ _ (by decide)⟩

theorem setOsc2Pw (val : F) : Statement (Instr.setOsc2Pw val) :=
  ⟨⟨"SET_OSC2_PW", .F, 0x0100001500000000#64, 0xFFFFFFFF00000000#64⟩, by decide, rfl, writeRow_selects _ _ _ _ _ (by decide)⟩

theorem setOscMix (val : F) : Statement (Instr.setOscMix val) :=
  ⟨⟨"SET_OSC_MIX", .F, 0x0100001600000000#64, 0xFFFFFFFF00000000#64⟩, by decide, rfl, writeRow_selects _ _ _ _ _ (by decide)⟩

theorem setWtMix (val : F) : Statement (Instr.setWtMix val) :=
  ⟨⟨"SET_WT_MIX", .F, 0x0100001700000000#64, 0xFFFFFFFF00000000#64⟩, by decide, rfl, writeRow_selects _ _ _ _ _ (by decide)⟩

theorem setWtTable (idx : BitVec 3) : Statement (Instr.setWtTable idx) :=
  ⟨⟨"SET_WT_TABLE", .K, 0x0100001800000000#64, 0xFFFFFFFF00000000#64⟩, by decide, rfl, writeRow_selects _ _ _ _ _ (by decide)⟩

theorem setWtPos (val : F) : Statement (Instr.setWtPos val) :=
  ⟨⟨"SET_WT_POS", .F, 0x0100001900000000#64, 0xFFFFFFFF00000000#64⟩, by decide, rfl, writeRow_selects _ _ _ _ _ (by decide)⟩

theorem setFltCutoff (val : F) : Statement (Instr.setFltCutoff val) :=
  ⟨⟨"SET_FLT_CUTOFF", .F, 0x0100001A00000000#64, 0xFFFFFFFF00000000#64⟩, by decide, rfl, writeRow_selects _ _ _ _ _ (by decide)⟩

theorem setFltRes (val : F) : Statement (Instr.setFltRes val) :=
  ⟨⟨"SET_FLT_RES", .F, 0x0100001B00000000#64, 0xFFFFFFFF00000000#64⟩, by decide, rfl, writeRow_selects _ _ _ _ _ (by decide)⟩

theorem setFltEnvAmt (val : F) : Statement (Instr.setFltEnvAmt val) :=
  ⟨⟨"SET_FLT_ENV_AMT", .F, 0x0100001C00000000#64, 0xFFFFFFFF00000000#64⟩, by decide, rfl, writeRow_selects _ _ _ _ _ (by decide)⟩

theorem setFltDrive (val : F) : Statement (Instr.setFltDrive val) :=
  ⟨⟨"SET_FLT_DRIVE", .F, 0x0100001D00000000#64, 0xFFFFFFFF00000000#64⟩, by decide, rfl, writeRow_selects _ _ _ _ _ (by decide)⟩

theorem setAmpAttack (val : F) : Statement (Instr.setAmpAttack val) :=
  ⟨⟨"SET_AMP_ATTACK", .F, 0x0100001E00000000#64, 0xFFFFFFFF00000000#64⟩, by decide, rfl, writeRow_selects _ _ _ _ _ (by decide)⟩

theorem setAmpDecay (val : F) : Statement (Instr.setAmpDecay val) :=
  ⟨⟨"SET_AMP_DECAY", .F, 0x0100001F00000000#64, 0xFFFFFFFF00000000#64⟩, by decide, rfl, writeRow_selects _ _ _ _ _ (by decide)⟩

theorem setAmpSustain (val : F) : Statement (Instr.setAmpSustain val) :=
  ⟨⟨"SET_AMP_SUSTAIN", .F, 0x0100002000000000#64, 0xFFFFFFFF00000000#64⟩, by decide, rfl, writeRow_selects _ _ _ _ _ (by decide)⟩

theorem setAmpRelease (val : F) : Statement (Instr.setAmpRelease val) :=
  ⟨⟨"SET_AMP_RELEASE", .F, 0x0100002100000000#64, 0xFFFFFFFF00000000#64⟩, by decide, rfl, writeRow_selects _ _ _ _ _ (by decide)⟩

theorem setFenvAttack (val : F) : Statement (Instr.setFenvAttack val) :=
  ⟨⟨"SET_FENV_ATTACK", .F, 0x0100002200000000#64, 0xFFFFFFFF00000000#64⟩, by decide, rfl, writeRow_selects _ _ _ _ _ (by decide)⟩

theorem setFenvDecay (val : F) : Statement (Instr.setFenvDecay val) :=
  ⟨⟨"SET_FENV_DECAY", .F, 0x0100002300000000#64, 0xFFFFFFFF00000000#64⟩, by decide, rfl, writeRow_selects _ _ _ _ _ (by decide)⟩

theorem setFenvSustain (val : F) : Statement (Instr.setFenvSustain val) :=
  ⟨⟨"SET_FENV_SUSTAIN", .F, 0x0100002400000000#64, 0xFFFFFFFF00000000#64⟩, by decide, rfl, writeRow_selects _ _ _ _ _ (by decide)⟩

theorem setFenvRelease (val : F) : Statement (Instr.setFenvRelease val) :=
  ⟨⟨"SET_FENV_RELEASE", .F, 0x0100002500000000#64, 0xFFFFFFFF00000000#64⟩, by decide, rfl, writeRow_selects _ _ _ _ _ (by decide)⟩

theorem setLfoRate (val : F) : Statement (Instr.setLfoRate val) :=
  ⟨⟨"SET_LFO_RATE", .F, 0x0100002600000000#64, 0xFFFFFFFF00000000#64⟩, by decide, rfl, writeRow_selects _ _ _ _ _ (by decide)⟩

theorem setLfoWave (kind : WaveformKind) : Statement (Instr.setLfoWave kind) :=
  ⟨⟨"SET_LFO_WAVE", .K, 0x0100002700000000#64, 0xFFFFFFFF00000000#64⟩, by decide, rfl, writeRow_selects _ _ _ _ _ (by decide)⟩

theorem setLfoToFilter (val : F) : Statement (Instr.setLfoToFilter val) :=
  ⟨⟨"SET_LFO_TO_FILTER", .F, 0x0100002800000000#64, 0xFFFFFFFF00000000#64⟩, by decide, rfl, writeRow_selects _ _ _ _ _ (by decide)⟩

theorem setLfoToPitch (val : F) : Statement (Instr.setLfoToPitch val) :=
  ⟨⟨"SET_LFO_TO_PITCH", .F, 0x0100002900000000#64, 0xFFFFFFFF00000000#64⟩, by decide, rfl, writeRow_selects _ _ _ _ _ (by decide)⟩

theorem setMasterVol (val : F) : Statement (Instr.setMasterVol val) :=
  ⟨⟨"SET_MASTER_VOL", .F, 0x0100002A00000000#64, 0xFFFFFFFF00000000#64⟩, by decide, rfl, writeRow_selects _ _ _ _ _ (by decide)⟩

theorem rd (addr : BitVec 8) : Statement (Instr.rd addr) :=
  ⟨⟨"RD", .R, 0x0200000000000000#64, 0xFFFFFF0000000000#64⟩, by decide, rfl, by revert addr; decide⟩

end RowSelects

end Laws

end Sys2Proof
end

