-- ==== Sys2Proof/Laws/Voice.lean ====
section
/-! SUPPORT. Field by field: what the component operations (40_oscillator.md to 45_voice.md) change, each true by
unfolding. Tagged for simp, so that no later proof unfolds a record update. -/

namespace Sys2Proof

namespace Machine

variable {α : Type}


/-! ### A voice under `VoiceProcess` (R251): the copies and the note stay -/

@[simp] theorem voiceProcess_note (c : ConfigOf α) (n : Nat) (v : VoiceOf α) : (voiceProcess c n v).2.1.note = v.note := rfl
@[simp] theorem voiceProcess_velRaw (c : ConfigOf α) (n : Nat) (v : VoiceOf α) : (voiceProcess c n v).2.1.velRaw = v.velRaw := rfl
@[simp] theorem voiceProcess_vel (c : ConfigOf α) (n : Nat) (v : VoiceOf α) : (voiceProcess c n v).2.1.vel = v.vel := rfl
@[simp] theorem voiceProcess_baseFreq (c : ConfigOf α) (n : Nat) (v : VoiceOf α) : (voiceProcess c n v).2.1.baseFreq = v.baseFreq := rfl
@[simp] theorem voiceProcess_oscMix (c : ConfigOf α) (n : Nat) (v : VoiceOf α) : (voiceProcess c n v).2.1.oscMix = v.oscMix := rfl
@[simp] theorem voiceProcess_wtMix (c : ConfigOf α) (n : Nat) (v : VoiceOf α) : (voiceProcess c n v).2.1.wtMix = v.wtMix := rfl
@[simp] theorem voiceProcess_envAmt (c : ConfigOf α) (n : Nat) (v : VoiceOf α) : (voiceProcess c n v).2.1.envAmt = v.envAmt := rfl
@[simp] theorem voiceProcess_lfoToFlt (c : ConfigOf α) (n : Nat) (v : VoiceOf α) : (voiceProcess c n v).2.1.lfoToFlt = v.lfoToFlt := rfl
@[simp] theorem voiceProcess_lfoToPitch (c : ConfigOf α) (n : Nat) (v : VoiceOf α) : (voiceProcess c n v).2.1.lfoToPitch = v.lfoToPitch := rfl
@[simp] theorem voiceProcess_baseCutoff (c : ConfigOf α) (n : Nat) (v : VoiceOf α) : (voiceProcess c n v).2.1.baseCutoff = v.baseCutoff := rfl
@[simp] theorem voiceProcess_osc1_kind (c : ConfigOf α) (n : Nat) (v : VoiceOf α) : (voiceProcess c n v).2.1.osc1.kind = v.osc1.kind := rfl
@[simp] theorem voiceProcess_osc1_pw (c : ConfigOf α) (n : Nat) (v : VoiceOf α) : (voiceProcess c n v).2.1.osc1.pw = v.osc1.pw := rfl
@[simp] theorem voiceProcess_osc1_detune (c : ConfigOf α) (n : Nat) (v : VoiceOf α) : (voiceProcess c n v).2.1.osc1.detune = v.osc1.detune := rfl
@[simp] theorem voiceProcess_osc1_fs (c : ConfigOf α) (n : Nat) (v : VoiceOf α) : (voiceProcess c n v).2.1.osc1.fs = v.osc1.fs := rfl
@[simp] theorem voiceProcess_osc2_kind (c : ConfigOf α) (n : Nat) (v : VoiceOf α) : (voiceProcess c n v).2.1.osc2.kind = v.osc2.kind := rfl
@[simp] theorem voiceProcess_osc2_pw (c : ConfigOf α) (n : Nat) (v : VoiceOf α) : (voiceProcess c n v).2.1.osc2.pw = v.osc2.pw := rfl
@[simp] theorem voiceProcess_osc2_detune (c : ConfigOf α) (n : Nat) (v : VoiceOf α) : (voiceProcess c n v).2.1.osc2.detune = v.osc2.detune := rfl
@[simp] theorem voiceProcess_osc2_fs (c : ConfigOf α) (n : Nat) (v : VoiceOf α) : (voiceProcess c n v).2.1.osc2.fs = v.osc2.fs := rfl
@[simp] theorem voiceProcess_wt_morph (c : ConfigOf α) (n : Nat) (v : VoiceOf α) : (voiceProcess c n v).2.1.wt.morph = v.wt.morph := rfl
@[simp] theorem voiceProcess_wt_table (c : ConfigOf α) (n : Nat) (v : VoiceOf α) : (voiceProcess c n v).2.1.wt.table = v.wt.table := rfl
@[simp] theorem voiceProcess_wt_fs (c : ConfigOf α) (n : Nat) (v : VoiceOf α) : (voiceProcess c n v).2.1.wt.fs = v.wt.fs := rfl
@[simp] theorem voiceProcess_flt_res (c : ConfigOf α) (n : Nat) (v : VoiceOf α) : (voiceProcess c n v).2.1.flt.res = v.flt.res := rfl
@[simp] theorem voiceProcess_flt_drive (c : ConfigOf α) (n : Nat) (v : VoiceOf α) : (voiceProcess c n v).2.1.flt.drive = v.flt.drive := rfl
@[simp] theorem voiceProcess_flt_fs (c : ConfigOf α) (n : Nat) (v : VoiceOf α) : (voiceProcess c n v).2.1.flt.fs = v.flt.fs := rfl
@[simp] theorem voiceProcess_lfo_rate (c : ConfigOf α) (n : Nat) (v : VoiceOf α) : (voiceProcess c n v).2.1.lfo.rate = v.lfo.rate := rfl
@[simp] theorem voiceProcess_lfo_kind (c : ConfigOf α) (n : Nat) (v : VoiceOf α) : (voiceProcess c n v).2.1.lfo.kind = v.lfo.kind := rfl
@[simp] theorem voiceProcess_lfo_fs (c : ConfigOf α) (n : Nat) (v : VoiceOf α) : (voiceProcess c n v).2.1.lfo.fs = v.lfo.fs := rfl
@[simp] theorem voiceProcess_ampEnv (c : ConfigOf α) (n : Nat) (v : VoiceOf α) : (voiceProcess c n v).2.1.ampEnv = envNext c.num v.ampEnv := rfl
@[simp] theorem voiceProcess_fltEnv (c : ConfigOf α) (n : Nat) (v : VoiceOf α) : (voiceProcess c n v).2.1.fltEnv = envNext c.num v.fltEnv := rfl
@[simp] theorem voiceProcess_lfo_phase (c : ConfigOf α) (n : Nat) (v : VoiceOf α) :
    (voiceProcess c n v).2.1.lfo.phase = advance c.num v.lfo.phase (c.num.div v.lfo.rate v.lfo.fs) := rfl

/-! ### An envelope under `EnvProcess` (R214 to R219): the parameters stay -/

@[simp] theorem envNext_relStart (num : Numerics α) (e : EnvOf α) : (envNext num e).relStart = e.relStart := by
  unfold envNext envAttack envDecay envSustain envRelease
  cases e.stage
  · rfl
  · dsimp only; split <;> rfl
  · dsimp only; split <;> rfl
  · rfl
  · dsimp only; split <;> rfl

@[simp] theorem envNext_attackMs (num : Numerics α) (e : EnvOf α) : (envNext num e).attackMs = e.attackMs := by
  unfold envNext envAttack envDecay envSustain envRelease
  cases e.stage
  · rfl
  · dsimp only; split <;> rfl
  · dsimp only; split <;> rfl
  · rfl
  · dsimp only; split <;> rfl

@[simp] theorem envNext_decayMs (num : Numerics α) (e : EnvOf α) : (envNext num e).decayMs = e.decayMs := by
  unfold envNext envAttack envDecay envSustain envRelease
  cases e.stage
  · rfl
  · dsimp only; split <;> rfl
  · dsimp only; split <;> rfl
  · rfl
  · dsimp only; split <;> rfl

@[simp] theorem envNext_sustain (num : Numerics α) (e : EnvOf α) : (envNext num e).sustain = e.sustain := by
  unfold envNext envAttack envDecay envSustain envRelease
  cases e.stage
  · rfl
  · dsimp only; split <;> rfl
  · dsimp only; split <;> rfl
  · rfl
  · dsimp only; split <;> rfl

@[simp] theorem envNext_releaseMs (num : Numerics α) (e : EnvOf α) : (envNext num e).releaseMs = e.releaseMs := by
  unfold envNext envAttack envDecay envSustain envRelease
  cases e.stage
  · rfl
  · dsimp only; split <;> rfl
  · dsimp only; split <;> rfl
  · rfl
  · dsimp only; split <;> rfl

@[simp] theorem envNext_fs (num : Numerics α) (e : EnvOf α) : (envNext num e).fs = e.fs := by
  unfold envNext envAttack envDecay envSustain envRelease
  cases e.stage
  · rfl
  · dsimp only; split <;> rfl
  · dsimp only; split <;> rfl
  · rfl
  · dsimp only; split <;> rfl

@[simp] theorem envNext_aRate (num : Numerics α) (e : EnvOf α) : (envNext num e).aRate = e.aRate := by
  unfold envNext envAttack envDecay envSustain envRelease
  cases e.stage
  · rfl
  · dsimp only; split <;> rfl
  · dsimp only; split <;> rfl
  · rfl
  · dsimp only; split <;> rfl

@[simp] theorem envNext_dRate (num : Numerics α) (e : EnvOf α) : (envNext num e).dRate = e.dRate := by
  unfold envNext envAttack envDecay envSustain envRelease
  cases e.stage
  · rfl
  · dsimp only; split <;> rfl
  · dsimp only; split <;> rfl
  · rfl
  · dsimp only; split <;> rfl

@[simp] theorem envNext_rRate (num : Numerics α) (e : EnvOf α) : (envNext num e).rRate = e.rRate := by
  unfold envNext envAttack envDecay envSustain envRelease
  cases e.stage
  · rfl
  · dsimp only; split <;> rfl
  · dsimp only; split <;> rfl
  · rfl
  · dsimp only; split <;> rfl

/-! ### A voice under note-on and note-off (R246, R250) -/

@[simp] theorem voiceNoteOn_osc1_kind (c : ConfigOf α) (r : Bool) (note vel : BitVec 7) (v : VoiceOf α) : (voiceNoteOn c r note vel v).osc1.kind = v.osc1.kind := rfl
@[simp] theorem voiceNoteOn_osc1_pw (c : ConfigOf α) (r : Bool) (note vel : BitVec 7) (v : VoiceOf α) : (voiceNoteOn c r note vel v).osc1.pw = v.osc1.pw := rfl
@[simp] theorem voiceNoteOn_osc1_detune (c : ConfigOf α) (r : Bool) (note vel : BitVec 7) (v : VoiceOf α) : (voiceNoteOn c r note vel v).osc1.detune = v.osc1.detune := rfl
@[simp] theorem voiceNoteOn_osc1_fs (c : ConfigOf α) (r : Bool) (note vel : BitVec 7) (v : VoiceOf α) : (voiceNoteOn c r note vel v).osc1.fs = v.osc1.fs := rfl
@[simp] theorem voiceNoteOn_osc2_kind (c : ConfigOf α) (r : Bool) (note vel : BitVec 7) (v : VoiceOf α) : (voiceNoteOn c r note vel v).osc2.kind = v.osc2.kind := rfl
@[simp] theorem voiceNoteOn_osc2_pw (c : ConfigOf α) (r : Bool) (note vel : BitVec 7) (v : VoiceOf α) : (voiceNoteOn c r note vel v).osc2.pw = v.osc2.pw := rfl
@[simp] theorem voiceNoteOn_osc2_detune (c : ConfigOf α) (r : Bool) (note vel : BitVec 7) (v : VoiceOf α) : (voiceNoteOn c r note vel v).osc2.detune = v.osc2.detune := rfl
@[simp] theorem voiceNoteOn_osc2_fs (c : ConfigOf α) (r : Bool) (note vel : BitVec 7) (v : VoiceOf α) : (voiceNoteOn c r note vel v).osc2.fs = v.osc2.fs := rfl
@[simp] theorem voiceNoteOn_wt_morph (c : ConfigOf α) (r : Bool) (note vel : BitVec 7) (v : VoiceOf α) : (voiceNoteOn c r note vel v).wt.morph = v.wt.morph := rfl
@[simp] theorem voiceNoteOn_wt_table (c : ConfigOf α) (r : Bool) (note vel : BitVec 7) (v : VoiceOf α) : (voiceNoteOn c r note vel v).wt.table = v.wt.table := rfl
@[simp] theorem voiceNoteOn_wt_fs (c : ConfigOf α) (r : Bool) (note vel : BitVec 7) (v : VoiceOf α) : (voiceNoteOn c r note vel v).wt.fs = v.wt.fs := rfl
@[simp] theorem voiceNoteOn_flt (c : ConfigOf α) (r : Bool) (note vel : BitVec 7) (v : VoiceOf α) : (voiceNoteOn c r note vel v).flt = v.flt := rfl
@[simp] theorem voiceNoteOn_oscMix (c : ConfigOf α) (r : Bool) (note vel : BitVec 7) (v : VoiceOf α) : (voiceNoteOn c r note vel v).oscMix = v.oscMix := rfl
@[simp] theorem voiceNoteOn_wtMix (c : ConfigOf α) (r : Bool) (note vel : BitVec 7) (v : VoiceOf α) : (voiceNoteOn c r note vel v).wtMix = v.wtMix := rfl
@[simp] theorem voiceNoteOn_envAmt (c : ConfigOf α) (r : Bool) (note vel : BitVec 7) (v : VoiceOf α) : (voiceNoteOn c r note vel v).envAmt = v.envAmt := rfl
@[simp] theorem voiceNoteOn_lfoToFlt (c : ConfigOf α) (r : Bool) (note vel : BitVec 7) (v : VoiceOf α) : (voiceNoteOn c r note vel v).lfoToFlt = v.lfoToFlt := rfl
@[simp] theorem voiceNoteOn_lfoToPitch (c : ConfigOf α) (r : Bool) (note vel : BitVec 7) (v : VoiceOf α) : (voiceNoteOn c r note vel v).lfoToPitch = v.lfoToPitch := rfl
@[simp] theorem voiceNoteOn_baseCutoff (c : ConfigOf α) (r : Bool) (note vel : BitVec 7) (v : VoiceOf α) : (voiceNoteOn c r note vel v).baseCutoff = v.baseCutoff := rfl
@[simp] theorem voiceNoteOn_ampEnv (c : ConfigOf α) (r : Bool) (note vel : BitVec 7) (v : VoiceOf α) : (voiceNoteOn c r note vel v).ampEnv = envNoteOn c.num v.ampEnv := rfl
@[simp] theorem voiceNoteOn_fltEnv (c : ConfigOf α) (r : Bool) (note vel : BitVec 7) (v : VoiceOf α) : (voiceNoteOn c r note vel v).fltEnv = envNoteOn c.num v.fltEnv := rfl
@[simp] theorem voiceNoteOff_ampEnv (v : VoiceOf α) : (voiceNoteOff v).ampEnv = envNoteOff v.ampEnv := rfl
@[simp] theorem voiceNoteOff_fltEnv (v : VoiceOf α) : (voiceNoteOff v).fltEnv = envNoteOff v.fltEnv := rfl
@[simp] theorem voiceNoteOff_note (v : VoiceOf α) : (voiceNoteOff v).note = v.note := rfl
@[simp] theorem voiceNoteOff_velRaw (v : VoiceOf α) : (voiceNoteOff v).velRaw = v.velRaw := rfl
@[simp] theorem voiceNoteOff_vel (v : VoiceOf α) : (voiceNoteOff v).vel = v.vel := rfl
@[simp] theorem voiceNoteOff_baseFreq (v : VoiceOf α) : (voiceNoteOff v).baseFreq = v.baseFreq := rfl
@[simp] theorem voiceNoteOff_osc1 (v : VoiceOf α) : (voiceNoteOff v).osc1 = v.osc1 := rfl
@[simp] theorem voiceNoteOff_osc2 (v : VoiceOf α) : (voiceNoteOff v).osc2 = v.osc2 := rfl
@[simp] theorem voiceNoteOff_wt (v : VoiceOf α) : (voiceNoteOff v).wt = v.wt := rfl
@[simp] theorem voiceNoteOff_flt (v : VoiceOf α) : (voiceNoteOff v).flt = v.flt := rfl
@[simp] theorem voiceNoteOff_lfo (v : VoiceOf α) : (voiceNoteOff v).lfo = v.lfo := rfl
@[simp] theorem voiceNoteOff_oscMix (v : VoiceOf α) : (voiceNoteOff v).oscMix = v.oscMix := rfl
@[simp] theorem voiceNoteOff_wtMix (v : VoiceOf α) : (voiceNoteOff v).wtMix = v.wtMix := rfl
@[simp] theorem voiceNoteOff_envAmt (v : VoiceOf α) : (voiceNoteOff v).envAmt = v.envAmt := rfl
@[simp] theorem voiceNoteOff_lfoToFlt (v : VoiceOf α) : (voiceNoteOff v).lfoToFlt = v.lfoToFlt := rfl
@[simp] theorem voiceNoteOff_lfoToPitch (v : VoiceOf α) : (voiceNoteOff v).lfoToPitch = v.lfoToPitch := rfl
@[simp] theorem voiceNoteOff_baseCutoff (v : VoiceOf α) : (voiceNoteOff v).baseCutoff = v.baseCutoff := rfl

/-! ### The filter and the draws -/

/-- The four stages of one filter sample (R198). -/
theorem fltProcess_stages (c : ConfigOf α) (f : FltOf α) (x : α) :
    (fltProcess c f x).2.s0 = fltStage c (fltG c f) (fltNode c f x) f.s0 ∧
    (fltProcess c f x).2.s1 = fltStage c (fltG c f) (fltProcess c f x).2.s0 f.s1 ∧
    (fltProcess c f x).2.s2 = fltStage c (fltG c f) (fltProcess c f x).2.s1 f.s2 ∧
    (fltProcess c f x).2.s3 = fltStage c (fltG c f) (fltProcess c f x).2.s2 f.s3 ∧
    (fltProcess c f x).1 = (fltProcess c f x).2.s3 := ⟨rfl, rfl, rfl, rfl, rfl⟩

/-- A shape that is not Noise does not depend on the draw count. -/
theorem shape_draw_irrelevant (c : ConfigOf α) (n m : Nat) (k : WaveformKind) (p dt pw d : α) (h : k ≠ .noise) :
    shape c n k p dt pw d = shape c m k p dt pw d := by
  cases k <;> first | rfl | exact absurd rfl h

theorem naiveShape_draw_irrelevant (c : ConfigOf α) (n m : Nat) (k : WaveformKind) (p : α) (h : k ≠ .noise) :
    naiveShape c n k p = naiveShape c m k p := by
  cases k <;> first | rfl | exact absurd rfl h

end Machine

end Sys2Proof
end

