-- ==== Sys2Proof/Machine/Exact.lean ====
section
/-! DEFINITION. A second number format: exact rational numbers, in the place of binary32 (00_scope.md R12: "so that another
format ... can be substituted"). The machine `effect`, `stepIn`, `resetIn` runs over it as it stands; the functions of R18 are
given, as in every configuration. -/

namespace Sys2Proof

/-- The value of a finite pattern; an infinity is 2^128, which every clamp takes to its bound. -/
def exactOfData (d : Word) : ℚ := (F.mk d).scaled / (F.unit : ℚ)

/-- Exact arithmetic on rational numbers. A register reads as the binary32 nearest to it. -/
def exact : Numerics ℚ where
  ofData := exactOfData
  toData q := (F.ofRatio (decide (q < 0)) (q.num.natAbs * F.unit) q.den).bits
  lit l := l.decimal.1 / l.decimal.2
  itof n := n
  floor q := q.floor
  abs q := |q|
  add a b := a + b
  sub a b := a - b
  mul a b := a * b
  div a b := a / b
  lt a b := decide (a < b)
  le a b := decide (a ≤ b)

end Sys2Proof
end

