-- ==== Sys2Proof/Machine/Pseudo.lean ====
section
/-! DEFINITION. The pseudo-instructions of 30_encoding.md R119, each with its expansion. The assembler or the host expands them; ESE18
never sees one. -/

namespace Sys2Proof

namespace Machine

/-- `SET_BIO hrv, coh` (R119, R277). -/
def pseudoSetBio (hrv coh : F) : List Instr := [.bioHrv hrv, .bioCoh coh]

/-- `MIDI_NOTE note, vel` (R119): the host's mapping of velocity 0 to a note-off. -/
def pseudoMidiNote (note vel : BitVec 7) : List Instr :=
  if vel = 0#7 then [.noteOff note] else [.noteOn note vel]

/-- `SET_AMP_ADSR a, d, s, r` (R119). -/
def pseudoSetAmpAdsr (a d s r : F) : List Instr :=
  [.setAmpAttack a, .setAmpDecay d, .setAmpSustain s, .setAmpRelease r]

/-- `SET_FENV_ADSR a, d, s, r` (R119). -/
def pseudoSetFenvAdsr (a d s r : F) : List Instr :=
  [.setFenvAttack a, .setFenvDecay d, .setFenvSustain s, .setFenvRelease r]

/-- `CLR_ERR` (R119). -/
def pseudoClrErr : List Instr := [.clrStatus true]

/-- Commands executed one after another, each completely (R90). -/
def execAll : List Instr → State → Result
  | [], s => .next s
  | i :: rest, s =>
    match exec i s with
    | .next t => execAll rest t
    | .fault f => .fault f
    | .refused r => .refused r

end Machine

end Sys2Proof
end

