-- ==== Sys2Proof/Tests/Slice0.lean ====
section
/-! SUPPORT. Tests of the model on fixed values, expected results taken from the spec's rules and vectors
(95_test_vectors.md), and one witness for each statement that has hypotheses. -/

namespace Sys2Proof

namespace Tests

open Sys2Proof.Machine

set_option Elab.async false

/-- A quiet NaN. -/
def quietNaN : F := ⟨0x7FC00000#32⟩

/-! ### WellFormed refuses each ill-formed term (R115 (e), (f)) -/

/-- A NaN operand, R115 (f). -/
theorem test_wf_refuses_nan_operand_low :
    [Instr.bioHrv quietNaN, .bioCoh quietNaN, .setSampleRate quietNaN, .setOsc1Detune quietNaN, .setOsc2Detune quietNaN, .setOsc1Pw quietNaN, .setOsc2Pw quietNaN, .setOscMix quietNaN, .setWtMix quietNaN, .setWtPos quietNaN, .setFltCutoff quietNaN, .setFltRes quietNaN, .setFltEnvAmt quietNaN, .setFltDrive quietNaN].all
      (fun i => !i.wf) = true := by decide +kernel

/-- A NaN operand, R115 (f). -/
theorem test_wf_refuses_nan_operand_high :
    [Instr.setAmpAttack quietNaN, .setAmpDecay quietNaN, .setAmpSustain quietNaN, .setAmpRelease quietNaN, .setFenvAttack quietNaN, .setFenvDecay quietNaN, .setFenvSustain quietNaN, .setFenvRelease quietNaN, .setLfoRate quietNaN, .setLfoToFilter quietNaN, .setLfoToPitch quietNaN, .setMasterVol quietNaN].all
      (fun i => !i.wf) = true := by decide +kernel

/-- A read of an unmapped address, R115 (e), R88. -/
theorem test_wf_refuses_unmapped_read :
    [0x05#8, 0x07#8, 0x0C#8, 0x0F#8, 0x2B#8, 0x3F#8, 0x50#8, 0xFF#8].all (fun a => !(Instr.rd a).wf) = true := by decide +kernel

/-- An infinity is no NaN and is accepted (R290). -/
theorem test_wf_accepts_infinity : (Instr.setFltCutoff ⟨0x7F800000#32⟩).wf = true := by decide +kernel

/-! ### Every constructor, from a word written out by the table of R114 and the formats of R111 -/

/-- R322 -/
theorem test_decode_nop : decode 0x0000000000000000#64 = .ok (.nop) := rfl

/-- Section 2.1: bits 7 and 31:15 ignored. -/
theorem test_decode_noteOn : decode 0x01000000FFFFFFFF#64 = .ok (.noteOn 127#7 127#7) := rfl

/-- Section 2.1. -/
theorem test_decode_noteOff : decode 0x010000010000003C#64 = .ok (.noteOff 60#7) := rfl

/-- Section 2.1: bit 16 ignored. -/
theorem test_decode_process : decode 0x0100000200010000#64 = .ok (.process 0#32) := rfl

/-- R275. -/
theorem test_decode_bioHrv : decode 0x010000033F000000#64 = .ok (.bioHrv F.half) := rfl

/-- R276. -/
theorem test_decode_bioCoh : decode 0x010000043E800000#64 = .ok (.bioCoh F.quarter) := rfl

/-- R318. -/
theorem test_decode_setSampleRate : decode 0x01000008472C4400#64 = .ok (.setSampleRate ⟨0x472C4400#32⟩) := rfl

/-- R319. -/
theorem test_decode_setCtrl : decode 0x01000009FFFFFFFE#64 = .ok (.setCtrl false) := rfl

/-- R320. -/
theorem test_decode_clrStatus : decode 0x0100000A00000001#64 = .ok (.clrStatus true) := rfl

/-- Section 2.1: low three bits. -/
theorem test_decode_setOsc1Wave : decode 0x01000010FFFFFFF9#64 = .ok (.setOsc1Wave .triangle) := rfl

/-- R292. -/
theorem test_decode_setOsc2Wave : decode 0x0100001100000007#64 = .ok (.setOsc2Wave .noise) := rfl

/-- R293. -/
theorem test_decode_setOsc1Detune : decode 0x010000123F000000#64 = .ok (.setOsc1Detune F.half) := rfl

/-- R294. -/
theorem test_decode_setOsc2Detune : decode 0x010000133E800000#64 = .ok (.setOsc2Detune F.quarter) := rfl

/-- R295. -/
theorem test_decode_setOsc1Pw : decode 0x010000143E99999A#64 = .ok (.setOsc1Pw ⟨0x3E99999A#32⟩) := rfl

/-- R296: 1.0. -/
theorem test_decode_setOsc2Pw : decode 0x010000153F800000#64 = .ok (.setOsc2Pw F.one) := rfl

/-- R297. -/
theorem test_decode_setOscMix : decode 0x010000163E800000#64 = .ok (.setOscMix F.quarter) := rfl

/-- R298. -/
theorem test_decode_setWtMix : decode 0x010000173F800000#64 = .ok (.setWtMix F.one) := rfl

/-- R299. -/
theorem test_decode_setWtTable : decode 0x0100001800000007#64 = .ok (.setWtTable 7#3) := rfl

/-- R300. -/
theorem test_decode_setWtPos : decode 0x010000193F800000#64 = .ok (.setWtPos F.one) := rfl

/-- R301. -/
theorem test_decode_setFltCutoff : decode 0x0100001A447A0000#64 = .ok (.setFltCutoff ⟨0x447A0000#32⟩) := rfl

/-- R302. -/
theorem test_decode_setFltRes : decode 0x0100001B3F800000#64 = .ok (.setFltRes F.one) := rfl

/-- R303. -/
theorem test_decode_setFltEnvAmt : decode 0x0100001C00000000#64 = .ok (.setFltEnvAmt F.zero) := rfl

/-- R304. -/
theorem test_decode_setFltDrive : decode 0x0100001D3F000000#64 = .ok (.setFltDrive F.half) := rfl

/-- R305. -/
theorem test_decode_setAmpAttack : decode 0x0100001E41200000#64 = .ok (.setAmpAttack ⟨0x41200000#32⟩) := rfl

/-- R306. -/
theorem test_decode_setAmpDecay : decode 0x0100001F42C80000#64 = .ok (.setAmpDecay ⟨0x42C80000#32⟩) := rfl

/-- R307. -/
theorem test_decode_setAmpSustain : decode 0x010000203F333333#64 = .ok (.setAmpSustain ⟨0x3F333333#32⟩) := rfl

/-- R308. -/
theorem test_decode_setAmpRelease : decode 0x0100002143480000#64 = .ok (.setAmpRelease ⟨0x43480000#32⟩) := rfl

/-- R309. -/
theorem test_decode_setFenvAttack : decode 0x0100002240A00000#64 = .ok (.setFenvAttack ⟨0x40A00000#32⟩) := rfl

/-- R310. -/
theorem test_decode_setFenvDecay : decode 0x01000023437A0000#64 = .ok (.setFenvDecay ⟨0x437A0000#32⟩) := rfl

/-- R311. -/
theorem test_decode_setFenvSustain : decode 0x0100002400000000#64 = .ok (.setFenvSustain F.zero) := rfl

/-- R312. -/
theorem test_decode_setFenvRelease : decode 0x0100002543960000#64 = .ok (.setFenvRelease ⟨0x43960000#32⟩) := rfl

/-- R313. -/
theorem test_decode_setLfoRate : decode 0x0100002640A00000#64 = .ok (.setLfoRate ⟨0x40A00000#32⟩) := rfl

/-- R314. -/
theorem test_decode_setLfoWave : decode 0x0100002700000001#64 = .ok (.setLfoWave .triangle) := rfl

/-- R315. -/
theorem test_decode_setLfoToFilter : decode 0x010000283F000000#64 = .ok (.setLfoToFilter F.half) := rfl

/-- R316. -/
theorem test_decode_setLfoToPitch : decode 0x010000293F800000#64 = .ok (.setLfoToPitch F.one) := rfl

/-- R317. -/
theorem test_decode_setMasterVol : decode 0x0100002A3F800000#64 = .ok (.setMasterVol F.one) := rfl

/-- Section 2.1: VOICE_STAT[15]. -/
theorem test_decode_rd : decode 0x0200004F00000000#64 = .ok (.rd 0x4F#8) := rfl

/-- Section 2.1. -/
theorem test_decode_rd_ignores_data : decode 0x0200001A12345678#64 = .ok (.rd 0x1A#8) := rfl

/-- R266, the word bit by bit. -/
theorem test_decode_noteOn_bits :
    decode (0b0000000100000000000000000000000000000000000000000111111101000101#64) = .ok (.noteOn 69#7 127#7) := rfl

/-! ### The six causes of rejection (R115), from section 2.1 -/

theorem test_reject_nop_payload : decode 0x0000000000000001#64 = .error .nopPayload := rfl

theorem test_reject_nan : decode 0x0100001B7FC00000#64 = .error .nanOperand := rfl

theorem test_reject_read_only : decode 0x0100000B00000000#64 = .error .badWrite := rfl

theorem test_reject_unmapped : decode 0x0100002B00000000#64 = .error .badWrite := rfl

theorem test_reject_rsv : decode 0x0100010000000000#64 = .error .reservedField := rfl

theorem test_reject_opc : decode 0x0300000000000000#64 = .error .reservedOpc := rfl

theorem test_reject_bad_read : decode 0x0200000500000000#64 = .error .badRead := rfl

/-- Section 2.1. -/
theorem test_k_format_has_no_nan_check : decode 0x010000107FC00000#64 = .ok (.setOsc1Wave .sine) := rfl

theorem test_decodeTableWord :
    decodeTableWord 64 0x0100001A447A0000 = some (.setFltCutoff ⟨0x447A0000#32⟩) ∧ decodeTableWord 64 0x0300000000000000 = none := by decide +kernel

/-- R85: a binary32 value's bits 7:0 are the first byte; L precedes R. -/
theorem test_value_bytes :
    bytesOfValue 0x447A0000#32 = [0x00#8, 0x00#8, 0x7A#8, 0x44#8] ∧ bytesOfFrame (F.one, F.minusOne) = [0x00#8, 0x00#8, 0x80#8, 0x3F#8, 0x00#8, 0x00#8, 0x80#8, 0xBF#8] := by decide

/-- R85: bits 7:0 first. -/
theorem test_command_bytes :
    bytesOfWord 0x0100001A447A0000#64 = [0x00#8, 0x00#8, 0x7A#8, 0x44#8, 0x1A#8, 0x00#8, 0x00#8, 0x01#8] := by decide

/-! ### The bit patterns of the decimal constants (R7, R8, R13): the binary32 nearest to the decimal -/

theorem test_constants_of_R7 :
    F.ofRatio false (F.unit * 5) 100 = Config.pwMin ∧
    F.ofRatio false (F.unit * 95) 100 = Config.pwMax ∧
    F.ofRatio false (F.unit * 20) 1 = Config.cutMin ∧
    F.ofRatio false (F.unit * 20000) 1 = Config.cutMax ∧
    F.ofRatio false (F.unit * 1) 100 = Config.lfoMin ∧
    F.ofRatio false (F.unit * 50) 1 = Config.lfoMax ∧
    F.ofRatio false (F.unit * 440) 1 = Config.a4Hz ∧
    F.ofRatio false (F.unit * 1) 10 = Config.pitchDepth ∧
    F.ofRatio false (F.unit * 3) 1 = Config.driveGain ∧
    F.ofRatio false (F.unit * 6283185307179586) 1000000000000000 = Config.twoPi ∧
    F.ofRatio false (F.unit * 1) 1000 = F.milli ∧
    F.ofRatio false (F.unit * 902) 100 = tanhSat := by decide +kernel

theorem test_constants_of_R8 :
    F.ofRatio false (F.unit * 48000) 1 = Config.fsResetDefault ∧
    F.ofRatio false (F.unit * 8000) 1 = hw.fsMin ∧
    F.ofRatio false (F.unit * 192000) 1 = hw.fsMax ∧
    F.ofRatio false (F.unit * 1) 100 = hw.ssUnit ∧
    F.ofRatio false (F.unit * 1) 2 = hw.fcMax ∧
    F.ofRatio false (F.unit * 1) 10 = hw.tMin ∧
    F.ofRatio false (F.unit * 10000) 1 = hw.tMax ∧
    F.ofRatio false (F.unit * 200) 1 = hw.bioCutBase ∧
    F.ofRatio false (F.unit * 7800) 1 = hw.bioCutSpan ∧
    F.ofRatio false (F.unit * 127) 1 = hw.velMax ∧
    F.ofRatio false (F.unit * 9892) 10000 = Config.g1Default ∧
    F.ofRatio true (F.unit * 4342) 10000 = Config.g2Default ∧
    F.ofRatio false (F.unit * 1381) 10000 = Config.g3Default ∧
    F.ofRatio true (F.unit * 202) 10000 = Config.g4Default := by decide +kernel

/-- Every literal of the rules is the binary32 nearest to its decimal (R13). -/
theorem test_literals (l : Lit) :
    F.ofLit l = F.ofRatio (decide (l.decimal.1 < 0)) (l.decimal.1.natAbs * F.unit) l.decimal.2 := by
  cases l <;> decide +kernel

/-! ### Arithmetic (R13 to R16); expected values from section 2 of the spec's vectors or by hand -/

/-- 440 / 48000, section 2.2. -/
theorem test_div_rounds : (⟨0x43DC0000#32⟩ : F).div ⟨0x473B8000#32⟩ = ⟨0x3C162FC9#32⟩ := by decide +kernel

/-- 10 * 0.001, R211. -/
theorem test_mul_rounds : (⟨0x41200000#32⟩ : F).mul F.milli = ⟨0x3C23D70B#32⟩ := by decide +kernel

/-- 1 + 2^-24 is a tie and rounds to even. -/
theorem test_add_tie_to_even : (⟨0x3F800000#32⟩ : F).add ⟨0x33800000#32⟩ = ⟨0x3F800000#32⟩ := by decide +kernel

/-- R12: infinities, gradual underflow; half the least subnormal is a tie to even. -/
theorem test_add_overflow_and_underflow :
    (⟨0x7F7FFFFF#32⟩ : F).add ⟨0x7F7FFFFF#32⟩ = ⟨0x7F800000#32⟩ ∧ (⟨0x00000001#32⟩ : F).mul F.half = F.zero := by decide +kernel

/-- R272: +0.0 + -0.0 = +0.0. -/
theorem test_zero_signs :
    F.zero.add ⟨0x80000000#32⟩ = F.zero ∧ F.one.sub F.one = F.zero ∧ (⟨0x80000000#32⟩ : F).add ⟨0x80000000#32⟩ = ⟨0x80000000#32⟩ := by decide +kernel

/-- R15, R290: -0.0 is stored as -0.0. -/
theorem test_clamp_infinities :
    F.clamp ⟨0x7F800000#32⟩ Config.cutMin Config.cutMax = Config.cutMax ∧ F.clamp ⟨0xFF800000#32⟩ Config.cutMin Config.cutMax = Config.cutMin ∧
    F.clamp ⟨0x80000000#32⟩ F.zero F.one = ⟨0x80000000#32⟩ := by decide +kernel

/-- Section 2.2: -0.03, 1.25, -1e-9 (the guard), -1.0. -/
theorem test_frac :
    F.frac ⟨0xBCF5C28F#32⟩ = ⟨0x3F7851EC#32⟩ ∧ F.frac ⟨0x3FA00000#32⟩ = F.quarter ∧ F.frac ⟨0xB089705F#32⟩ = F.zero ∧ F.frac F.minusOne = F.zero := by decide +kernel

/-! ### Oscillator and LFO shapes (section 2.2 and 2.6) -/

theorem test_blep :
    blep binary32 F.zero F.quarter = F.minusOne ∧ blep binary32 ⟨0x3E000000#32⟩ F.quarter = ⟨0xBE800000#32⟩ ∧ blep binary32 F.quarter F.quarter = F.zero ∧ blep binary32 ⟨0x3F400000#32⟩ F.quarter = F.zero ∧ blep binary32 ⟨0x3F600000#32⟩ F.quarter = F.quarter ∧ blep binary32 ⟨0x3F700000#32⟩ ⟨0x3E000000#32⟩ = F.quarter ∧ blep binary32 F.half F.half = F.zero ∧ blep binary32 F.zero F.zero = F.zero := by decide +kernel

theorem test_saw :
    saw binary32 F.zero F.quarter = F.zero ∧ saw binary32 ⟨0x3E000000#32⟩ F.quarter = ⟨0xBF000000#32⟩ ∧ saw binary32 F.quarter F.quarter = ⟨0xBF000000#32⟩ ∧ saw binary32 F.half F.quarter = F.zero ∧ saw binary32 ⟨0x3F400000#32⟩ F.quarter = F.half ∧ saw binary32 ⟨0x3F600000#32⟩ F.quarter = F.half ∧ saw binary32 F.zero F.zero = F.minusOne := by decide +kernel

theorem test_square :
    shape hw 0 .square F.zero F.quarter F.zero F.zero = F.zero ∧ shape hw 0 .square ⟨0x3E000000#32⟩ F.quarter F.zero F.zero = ⟨0x3F400000#32⟩ ∧ shape hw 0 .square F.quarter F.quarter F.zero F.zero = F.one ∧ shape hw 0 .square ⟨0x3EC00000#32⟩ F.quarter F.zero F.zero = ⟨0x3F400000#32⟩ ∧ shape hw 0 .square F.half F.quarter F.zero F.zero = F.zero ∧ shape hw 0 .square ⟨0x3F200000#32⟩ F.quarter F.zero F.zero = ⟨0xBF400000#32⟩ ∧ shape hw 0 .square ⟨0x3F400000#32⟩ F.quarter F.zero F.zero = F.minusOne ∧ shape hw 0 .square ⟨0x3F600000#32⟩ F.quarter F.zero F.zero = ⟨0xBF400000#32⟩ := by decide +kernel

theorem test_pulse25 :
    shape hw 0 .pulse25 F.zero ⟨0x3E000000#32⟩ F.zero F.zero = F.zero ∧ shape hw 0 .pulse25 ⟨0x3D800000#32⟩ ⟨0x3E000000#32⟩ F.zero F.zero = ⟨0x3F400000#32⟩ ∧ shape hw 0 .pulse25 ⟨0x3E000000#32⟩ ⟨0x3E000000#32⟩ F.zero F.zero = F.one ∧ shape hw 0 .pulse25 ⟨0x3E400000#32⟩ ⟨0x3E000000#32⟩ F.zero F.zero = ⟨0x3F400000#32⟩ ∧ shape hw 0 .pulse25 F.quarter ⟨0x3E000000#32⟩ F.zero F.zero = F.zero ∧ shape hw 0 .pulse25 ⟨0x3EA00000#32⟩ ⟨0x3E000000#32⟩ F.zero F.zero = ⟨0xBF400000#32⟩ ∧ shape hw 0 .pulse25 F.half ⟨0x3E000000#32⟩ F.zero F.zero = F.minusOne ∧ shape hw 0 .pulse25 ⟨0x3F700000#32⟩ ⟨0x3E000000#32⟩ F.zero F.zero = ⟨0xBF400000#32⟩ := by decide +kernel

theorem test_pwm :
    shape hw 0 .pwm F.quarter ⟨0x3E000000#32⟩ ⟨0x3E99999A#32⟩ F.zero = ⟨0x3F23D70C#32⟩ ∧ shape hw 0 .pwm ⟨0x3EC00000#32⟩ ⟨0x3E000000#32⟩ ⟨0x3E99999A#32⟩ F.zero = ⟨0xBF570A42#32⟩ := by decide +kernel

theorem test_triangle :
    triangle binary32 F.zero = F.one ∧ triangle binary32 ⟨0x3E000000#32⟩ = F.half ∧ triangle binary32 F.quarter = F.zero ∧ triangle binary32 F.half = F.minusOne ∧ triangle binary32 ⟨0x3F400000#32⟩ = F.zero ∧ triangle binary32 ⟨0x3F700000#32⟩ = ⟨0x3F400000#32⟩ := by decide +kernel

theorem test_supersaw :
    superSaw hw F.half F.quarter F.one = ⟨0xB2980000#32⟩ ∧ superSaw hw F.zero F.quarter F.one = ⟨0xB3680000#32⟩ ∧ superSaw hw ⟨0x3E99999A#32⟩ ⟨0x3C23D70A#32⟩ F.zero = ⟨0xBECCCCCC#32⟩ := by decide +kernel

/-- The last: 4e-8 makes the sum round to 1.0. -/
theorem test_advance :
    advance binary32 ⟨0x3F666666#32⟩ F.quarter = ⟨0x3E199998#32⟩ ∧ advance binary32 F.half F.half = F.zero ∧ advance binary32 ⟨0x3F7FFFFF#32⟩ ⟨0x332BCC77#32⟩ = F.zero := by decide +kernel

/-- R142: 30000, +Inf and -5 at 48000 Hz. -/
theorem test_osc_frequency_clamp :
    clampFreq binary32 Config.fsResetDefault ⟨0x46EA6000#32⟩ = ⟨0x46BB8000#32⟩ ∧ clampFreq binary32 Config.fsResetDefault ⟨0x7F800000#32⟩ = ⟨0x46BB8000#32⟩ ∧ clampFreq binary32 Config.fsResetDefault ⟨0xC0A00000#32⟩ = F.zero := by decide +kernel

theorem test_lfo_shapes :
    naiveShape hw 0 .triangle F.quarter = F.zero ∧ naiveShape hw 0 .sawtooth F.quarter = ⟨0xBF000000#32⟩ ∧ naiveShape hw 0 .superSaw ⟨0x3F400000#32⟩ = F.half ∧
    naiveShape hw 0 .square F.quarter = F.one ∧ naiveShape hw 0 .pwm F.half = F.minusOne ∧ naiveShape hw 0 .pulse25 F.quarter = F.minusOne := by decide +kernel

/-! ### Wavetable (section 2.3, its test ROM) -/

/-- `TROM(t, f, s) = itof(s)/2048 − itof(f)/256`. -/
def testRom (_ f s : Nat) : F := ((F.itof s).div F.c2048).sub ((F.itof f).div ⟨0x43800000#32⟩)

def testConfig : Config := configWith binary32 id id id testRom (fun _ => F.zero)

theorem test_wavetable :
    wtRead testConfig 0#3 F.zero F.quarter = F.quarter ∧
    wtRead testConfig 0#3 F.one F.quarter = ⟨0xBF3F0000#32⟩ ∧
    wtRead testConfig 0#3 F.half F.quarter = ⟨0xBE7E0000#32⟩ ∧
    wtRead testConfig 0#3 F.half ⟨0x3F7FFA00#32⟩ = ⟨0xBE9F0C00#32⟩ ∧
    wtRead testConfig 0#3 F.one ⟨0x3F7FFA00#32⟩ = ⟨0xBF4F0600#32⟩ ∧
    wtRead testConfig 0#3 F.quarter ⟨0x3DCCCCCD#32⟩ = ⟨0xBE18999A#32⟩ ∧
    wtRead testConfig 0#3 ⟨0x3E99999A#32⟩ ⟨0x3F333333#32⟩ = ⟨0x3ECD6666#32⟩ := by decide +kernel

/-! ### Filter (section 2.4), with the default functions of R18 -/

def testFlt (res drive cutoff fs : F) : Flt := ⟨F.zero, F.zero, F.zero, F.zero, res, drive, fs, cutoff⟩

theorem test_filter_coefficient :
    fltG hw (testFlt F.zero F.zero ⟨0x447A0000#32⟩ ⟨0x473B8000#32⟩) = ⟨0x3DFA9296#32⟩ ∧
    fltG hw (testFlt F.zero F.zero ⟨0x44FA0000#32⟩ ⟨0x473B8000#32⟩) = ⟨0x3E6D275C#32⟩ ∧
    fltG hw (testFlt F.zero F.zero ⟨0x41A00000#32⟩ ⟨0x483B8000#32⟩) = ⟨0x3A29ABD0#32⟩ ∧
    fltG hw (testFlt F.zero F.zero ⟨0x469C4000#32⟩ ⟨0x45FA0000#32⟩) = ⟨0x3F917B9C#32⟩ := by decide +kernel

theorem test_filter_T_FLT1 :
    (fltProcess (reference testRom (fun _ => F.zero)) (testFlt F.zero F.zero ⟨0x447A0000#32⟩ Config.fsResetDefault) F.one).2 =
    { testFlt F.zero F.zero ⟨0x447A0000#32⟩ Config.fsResetDefault with
      s0 := ⟨0x3DA0DF12#32⟩, s1 := ⟨0x3C1D2342#32⟩, s2 := ⟨0x3A99CD33#32⟩, s3 := ⟨0x39168A70#32⟩ } := by decide +kernel

/-! ### Envelope (section 2.5) -/

theorem test_envelope_rates :
    envRate binary32 ⟨0x41200000#32⟩ ⟨0x473B8000#32⟩ = ⟨0x3B088888#32⟩ ∧
    envRate binary32 ⟨0x42C80000#32⟩ ⟨0x473B8000#32⟩ = ⟨0x395A740E#32⟩ ∧
    envRate binary32 ⟨0x43480000#32⟩ ⟨0x473B8000#32⟩ = ⟨0x38DA740E#32⟩ ∧
    envRate binary32 ⟨0x41200000#32⟩ ⟨0x472C4400#32⟩ = ⟨0x3B149B92#32⟩ ∧
    envRate binary32 ⟨0x3DCCCCCD#32⟩ ⟨0x45FA0000#32⟩ = ⟨0x3FA00000#32⟩ ∧
    envRate binary32 ⟨0x461C4000#32⟩ ⟨0x483B8000#32⟩ = ⟨0x350BCF65#32⟩ := by decide +kernel

/-- The amplitude envelope of the reset parameters (10, 100, 0.7, 200 ms at 48000 Hz). -/
def testEnv (st : Stage) (level : F) : Env :=
  { Env.reset hw ⟨0x41200000#32⟩ ⟨0x42C80000#32⟩ ⟨0x3F333333#32⟩ ⟨0x43480000#32⟩ with stage := st, level := level }

/-- T-ENV1 calls 1 and 480. -/
theorem test_envelope_attack :
    (envNext binary32 (testEnv .attack F.zero)).level = ⟨0x3B088888#32⟩ ∧ envNext binary32 (testEnv .attack ⟨0x3F7F77DF#32⟩) = testEnv .decay F.one := by decide +kernel

/-- T-ENV1 calls 481 and 1921. -/
theorem test_envelope_decay :
    envNext binary32 (testEnv .decay F.one) = testEnv .decay ⟨0x3F7FF259#32⟩ ∧ envNext binary32 (testEnv .decay ⟨0x3F3334A0#32⟩) = testEnv .sustain ⟨0x3F333333#32⟩ := by decide +kernel

/-- T-ENV1 release call 1, and the corner case relStart = 0. -/
theorem test_envelope_release :
    (envNext binary32 (envNoteOff (testEnv .sustain ⟨0x3F333333#32⟩))).level = ⟨0x3F332E6C#32⟩ ∧ (envNext binary32 (envNoteOff (testEnv .attack F.zero))).stage = .idle := by decide +kernel

/-! ### The default functions (R8, R18) at values of section 2 -/

/-- sin(pi/4), tanh(1), 2^-5.75. -/
theorem test_default_functions :
    fsinCR (Config.twoPi.mul ⟨0x3E000000#32⟩) = ⟨0x3F3504F3#32⟩ ∧ ftanhCR F.one = ⟨0x3F42F7D6#32⟩ ∧ fexp2CR (⟨0xC0B80000#32⟩) = ⟨0x3C9837F0#32⟩ := by decide +kernel

/-! ### One command on the state after reset: one field of the result each -/

/-- What a result says of its next state. -/
def after (r : Result) (p : State → Bool) : Bool :=
  match r with
  | .next t => p t
  | .fault _ => false
  | .refused _ => false

/-- A voice sounding note 60 at full velocity, both envelopes in Sustain. -/
def sounding : Voice :=
  { Voice.reset hw hw.resetParams with
    note := 60#7, velRaw := 127#7, vel := F.one, baseFreq := Config.a4Hz
    ampEnv := testEnv .sustain ⟨0x3F333333#32⟩, fltEnv := testEnv .sustain ⟨0x3F333333#32⟩ }

/-- Voice 0 sounds, `CMDERR` is set, and `SET_FLT_CUTOFF 1000` is presented. -/
def playing : State :=
  { State.reset with
    voices := State.reset.voices.set 0 sounding, cmdErr := true, port := [0x0100001A447A0000#64] }

/-- All 16 voices sound. -/
def crowded : State := { State.reset with voices := Vector.replicate 16 sounding }

/-- R322. -/
theorem test_exec_nop : after (exec (.nop) playing) (fun t => decide (t = playing)) = true := by decide +kernel

/-- R246, R266: ACTIVE 1, VOICE_STAT[0] 0x00117F45, 440 Hz. -/
theorem test_exec_noteOn_free_voice :
    after (exec (.noteOn 69#7 127#7) State.reset) (fun t => decide (regRead 0x0B#8 t = 1#32 ∧ regRead 0x40#8 t = 0x00117F45#32 ∧ t.voices[0].baseFreq = Config.a4Hz)) = true := by decide +kernel

/-- R268: with all 16 active, voice 0 is taken and voice 1 kept. -/
theorem test_exec_noteOn_steals_voice_0 :
    after (exec (.noteOn 56#7 100#7) crowded) (fun t => decide (regRead 0x40#8 t = 0x00116438#32 ∧ regRead 0x41#8 t = 0x00337F3C#32)) = true := by decide +kernel

/-- R270. -/
theorem test_exec_noteOff_all_matching :
    after (exec (.noteOff 60#7) crowded) (fun t => decide (regRead 0x40#8 t = 0x00447F3C#32 ∧ regRead 0x4F#8 t = 0x00447F3C#32 ∧ t.voices[3].ampEnv.relStart = ⟨0x3F333333#32⟩)) = true := by decide +kernel

/-- R270: no matching voice. -/
theorem test_exec_noteOff_other_note :
    after (exec (.noteOff 61#7) playing) (fun t => decide (t = playing)) = true := by decide +kernel

/-- R271: four frames (0.0, 0.0). -/
theorem test_exec_process_silent :
    after (exec (.process 4#32) State.reset) (fun t => decide (t = { State.reset with frames := List.replicate 4 (F.zero, F.zero) })) = true := by decide +kernel

/-- R275: 4100.0. -/
theorem test_exec_bioHrv :
    after (exec (.bioHrv F.half) State.reset) (fun t => decide (t.params.fltCutoff = ⟨0x45802000#32⟩ ∧ t.voices[7].baseCutoff = ⟨0x45802000#32⟩)) = true := by decide +kernel

/-- Section 2.8: 7 gives 1.0. -/
theorem test_exec_bioCoh :
    after (exec (.bioCoh F.seven) State.reset) (fun t => decide (t.params.wtPos = F.one ∧ t.voices[15].wt.morph = F.one)) = true := by decide +kernel

/-- R318: 0 stores 8000. -/
theorem test_exec_setSampleRate :
    after (exec (.setSampleRate F.zero) State.reset) (fun t => decide (t.sampleRate = ⟨0x45FA0000#32⟩ ∧ t.voices[3].fltEnv.fs = ⟨0x45FA0000#32⟩ ∧ t.voices[3].lfo.fs = ⟨0x45FA0000#32⟩)) = true := by decide +kernel

/-- R319. -/
theorem test_exec_setCtrl :
    after (exec (.setCtrl true) State.reset) (fun t => decide (regRead 0x09#8 t = 1#32)) = true := by decide +kernel

/-- R320. -/
theorem test_exec_clrStatus :
    after (exec (.clrStatus true) playing) (fun t => decide (regRead 0x0A#8 t = 0#32)) = true := by decide +kernel

/-- R320: a 0 leaves CMDERR. -/
theorem test_exec_clrStatus_zero :
    after (exec (.clrStatus false) playing) (fun t => decide (regRead 0x0A#8 t = 1#32)) = true := by decide +kernel

/-- R291. -/
theorem test_exec_setOsc1Wave :
    after (exec (.setOsc1Wave .square) State.reset) (fun t => decide (regRead 0x10#8 t = 3#32 ∧ t.voices[2].osc1.kind = .square ∧ t.voices[2].osc2.kind = .sawtooth)) = true := by decide +kernel

/-- R292. -/
theorem test_exec_setOsc2Wave :
    after (exec (.setOsc2Wave .noise) State.reset) (fun t => decide (regRead 0x11#8 t = 7#32 ∧ t.voices[2].osc2.kind = .noise ∧ t.voices[2].osc1.kind = .sawtooth)) = true := by decide +kernel

/-- R293: 7.0 stores 1.0. -/
theorem test_exec_setOsc1Detune :
    after (exec (.setOsc1Detune F.seven) State.reset) (fun t => decide (regRead 0x12#8 t = 0x3F800000#32 ∧ t.voices[9].osc1.detune = F.one)) = true := by decide +kernel

/-- R294. -/
theorem test_exec_setOsc2Detune :
    after (exec (.setOsc2Detune F.quarter) State.reset) (fun t => decide (regRead 0x13#8 t = 0x3E800000#32 ∧ t.voices[9].osc2.detune = F.quarter)) = true := by decide +kernel

/-- R295: 0.0 stores 0.05. -/
theorem test_exec_setOsc1Pw :
    after (exec (.setOsc1Pw F.zero) State.reset) (fun t => decide (regRead 0x14#8 t = 0x3D4CCCCD#32 ∧ t.voices[9].osc1.pw = Config.pwMin)) = true := by decide +kernel

/-- R296: 1.0 stores 0.95. -/
theorem test_exec_setOsc2Pw :
    after (exec (.setOsc2Pw F.one) State.reset) (fun t => decide (regRead 0x15#8 t = 0x3F733333#32 ∧ t.voices[9].osc2.pw = Config.pwMax)) = true := by decide +kernel

/-- R297: -1.0 stores 0.0. -/
theorem test_exec_setOscMix :
    after (exec (.setOscMix F.minusOne) State.reset) (fun t => decide (regRead 0x16#8 t = 0#32 ∧ t.voices[9].oscMix = F.zero)) = true := by decide +kernel

/-- R298. -/
theorem test_exec_setWtMix :
    after (exec (.setWtMix F.one) State.reset) (fun t => decide (regRead 0x17#8 t = 0x3F800000#32 ∧ t.voices[9].wtMix = F.one)) = true := by decide +kernel

/-- R299. -/
theorem test_exec_setWtTable :
    after (exec (.setWtTable 7#3) State.reset) (fun t => decide (regRead 0x18#8 t = 7#32 ∧ t.voices[9].wt.table = 7#3)) = true := by decide +kernel

/-- R290: -0.0 is stored as -0.0. -/
theorem test_exec_setWtPos :
    after (exec (.setWtPos ⟨0x80000000#32⟩) State.reset) (fun t => decide (regRead 0x19#8 t = 0x80000000#32)) = true := by decide +kernel

/-- R301: 35000 stores 20000. -/
theorem test_exec_setFltCutoff :
    after (exec (.setFltCutoff ⟨0x4708B800#32⟩) State.reset) (fun t => decide (regRead 0x1A#8 t = 0x469C4000#32 ∧ t.voices[9].baseCutoff = Config.cutMax)) = true := by decide +kernel

/-- R302. -/
theorem test_exec_setFltRes :
    after (exec (.setFltRes F.one) State.reset) (fun t => decide (regRead 0x1B#8 t = 0x3F800000#32 ∧ t.voices[9].flt.res = F.one)) = true := by decide +kernel

/-- R303. -/
theorem test_exec_setFltEnvAmt :
    after (exec (.setFltEnvAmt F.zero) State.reset) (fun t => decide (regRead 0x1C#8 t = 0#32 ∧ t.voices[9].envAmt = F.zero)) = true := by decide +kernel

/-- R304: 3.0 stores 1.0. -/
theorem test_exec_setFltDrive :
    after (exec (.setFltDrive ⟨0x40400000#32⟩) State.reset) (fun t => decide (regRead 0x1D#8 t = 0x3F800000#32 ∧ t.voices[9].flt.drive = F.one)) = true := by decide +kernel

/-- R305: 0 stores 0.1. -/
theorem test_exec_setAmpAttack :
    after (exec (.setAmpAttack F.zero) State.reset) (fun t => decide (regRead 0x1E#8 t = 0x3DCCCCCD#32 ∧ t.voices[9].ampEnv.attackMs = hw.tMin)) = true := by decide +kernel

/-- R306, R211: 10 ms at 48000 Hz. -/
theorem test_exec_setAmpDecay :
    after (exec (.setAmpDecay ⟨0x41200000#32⟩) State.reset) (fun t => decide (regRead 0x1F#8 t = 0x41200000#32 ∧ t.voices[9].ampEnv.dRate = ⟨0x3B088888#32⟩)) = true := by decide +kernel

/-- R307. -/
theorem test_exec_setAmpSustain :
    after (exec (.setAmpSustain F.half) State.reset) (fun t => decide (regRead 0x20#8 t = 0x3F000000#32 ∧ t.voices[9].ampEnv.sustain = F.half)) = true := by decide +kernel

/-- R308: 1e9 stores 10000. -/
theorem test_exec_setAmpRelease :
    after (exec (.setAmpRelease ⟨0x4E6E6B28#32⟩) State.reset) (fun t => decide (regRead 0x21#8 t = 0x461C4000#32 ∧ t.voices[9].ampEnv.releaseMs = hw.tMax)) = true := by decide +kernel

/-- R309, section 2.5: 100 ms at 48000 Hz. -/
theorem test_exec_setFenvAttack :
    after (exec (.setFenvAttack ⟨0x42C80000#32⟩) State.reset) (fun t => decide (regRead 0x22#8 t = 0x42C80000#32 ∧ t.voices[9].fltEnv.aRate = ⟨0x395A740E#32⟩)) = true := by decide +kernel

/-- R310, section 2.5: 200 ms at 48000 Hz. -/
theorem test_exec_setFenvDecay :
    after (exec (.setFenvDecay ⟨0x43480000#32⟩) State.reset) (fun t => decide (regRead 0x23#8 t = 0x43480000#32 ∧ t.voices[9].fltEnv.dRate = ⟨0x38DA740E#32⟩)) = true := by decide +kernel

/-- R311. -/
theorem test_exec_setFenvSustain :
    after (exec (.setFenvSustain F.zero) State.reset) (fun t => decide (regRead 0x24#8 t = 0#32 ∧ t.voices[9].fltEnv.sustain = F.zero)) = true := by decide +kernel

/-- R312, R211. -/
theorem test_exec_setFenvRelease :
    after (exec (.setFenvRelease ⟨0x41200000#32⟩) State.reset) (fun t => decide (regRead 0x25#8 t = 0x41200000#32 ∧ t.voices[9].fltEnv.rRate = ⟨0x3B088888#32⟩)) = true := by decide +kernel

/-- R313: 100 stores 50. -/
theorem test_exec_setLfoRate :
    after (exec (.setLfoRate ⟨0x42C80000#32⟩) State.reset) (fun t => decide (regRead 0x26#8 t = 0x42480000#32 ∧ t.voices[9].lfo.rate = Config.lfoMax)) = true := by decide +kernel

/-- R314. -/
theorem test_exec_setLfoWave :
    after (exec (.setLfoWave .triangle) State.reset) (fun t => decide (regRead 0x27#8 t = 1#32 ∧ t.voices[9].lfo.kind = .triangle)) = true := by decide +kernel

/-- R315. -/
theorem test_exec_setLfoToFilter :
    after (exec (.setLfoToFilter F.half) State.reset) (fun t => decide (regRead 0x28#8 t = 0x3F000000#32 ∧ t.voices[9].lfoToFlt = F.half)) = true := by decide +kernel

/-- R316, R290. -/
theorem test_exec_setLfoToPitch :
    after (exec (.setLfoToPitch F.two) State.reset) (fun t => decide (regRead 0x29#8 t = 0x3F800000#32 ∧ t.voices[9].lfoToPitch = F.one)) = true := by decide +kernel

/-- R317: 2.0 stores 1.0. -/
theorem test_exec_setMasterVol :
    after (exec (.setMasterVol F.two) State.reset) (fun t => decide (regRead 0x2A#8 t = 0x3F800000#32)) = true := by decide +kernel

/-- R321: 2000.0. -/
theorem test_exec_rd :
    after (exec (.rd 0x1A#8) State.reset) (fun t => decide (t = { State.reset with responses := [0x44FA0000#32] })) = true := by decide +kernel

/-- R323, D40: reads zero, no error. -/
theorem test_exec_rd_write_only :
    after (exec (.rd 0x02#8) State.reset) (fun t => decide (t = { State.reset with responses := [0#32] })) = true := by decide +kernel

/-- R115 (e). -/
theorem test_step_rejected_read :
    after (step (State.reset.withFetchWord 64 0x0200000500000000)) (fun t => decide (t = { State.reset with cmdErr := true, responses := [0#32] })) = true := by decide +kernel

/-- R115 (f). -/
theorem test_step_rejected_nan :
    after (step (State.reset.withFetchWord 64 0x0100001B7FC00000)) (fun t => decide (t = { State.reset with cmdErr := true })) = true := by decide +kernel

/-- Every row's match word runs as the first command after reset. -/
theorem test_step_runs_every_row :
    opcodeRows.all (fun r => after (step (State.reset.withFetchWord 64 r.matchWord.toNat)) (fun t => decide (t.port = []))) = true := by decide +kernel

/-- Section 2.7: m = 1.1; c = 6000; c = -2000 clamped to 20. -/
theorem test_voice_routing :
    pitchMod binary32 { sounding with lfoToPitch := F.one } F.one = ⟨0x3F8CCCCD#32⟩ ∧ modCutoff binary32 { sounding with envAmt := F.half } F.zero F.one = ⟨0x45BB8000#32⟩ ∧
    (fltSetCutoff binary32 sounding.flt (modCutoff binary32 { sounding with lfoToFlt := F.one } F.minusOne F.zero)).cutoff = Config.cutMin := by decide +kernel

/-- Section 2.7. -/
theorem test_velocity :
    noteVel hw 1#7 = ⟨0x3C010204#32⟩ ∧ noteVel hw 64#7 = ⟨0x3F010204#32⟩ ∧ noteVel hw 80#7 = ⟨0x3F214285#32⟩ := by decide +kernel

/-! ### Other configurations and another number format (R8, R12) -/

/-- D34: with DRIVE_MAX = 4 a drive of 3 is stored as it is. -/
theorem test_other_driveMax :
    (effect { hw with driveMax := F.four } (.setFltDrive Config.driveGain) State.reset).params.fltDrive = Config.driveGain := by decide +kernel

/-- R8, R113: with an 8-bit count the low 8 bits of 260. -/
theorem test_other_frameCountBits : decodeIn 8 0x0100000200000104#64 = .ok (.process 4#32) := rfl

/-- R62: every copy of the sample rate is FS_RESET. -/
theorem test_other_fsReset :
    (effect { hw with fsReset := ⟨0x472C4400#32⟩ } .nop (resetIn { hw with fsReset := ⟨0x472C4400#32⟩ })).voices[3].osc1.fs = ⟨0x472C4400#32⟩ := by decide +kernel

/-- Exact rational arithmetic in the place of binary32; the functions of R18 do not matter to the tests below. -/
def exactConfig : ConfigOf ℚ := configWith exact id id id (fun _ _ _ => 0) (fun _ => 0)

/-- R301 over the rationals: 1000 Hz; +infinity gives 20000. -/
theorem test_exact_cutoff :
    (effect exactConfig (.setFltCutoff ⟨0x447A0000#32⟩) (resetIn exactConfig)).params.fltCutoff = 1000 ∧
    (effect exactConfig (.setFltCutoff ⟨0x7F800000#32⟩) (resetIn exactConfig)).params.fltCutoff = 20000 := by decide +kernel

/-- R148, R151, R16, R211 over the rationals; the first two are the rules' own examples. -/
theorem test_exact_rules :
    blep exact (1 / 8) (1 / 4) = -1 / 4 ∧ saw exact (7 / 8) (1 / 4) = 1 / 2 ∧ exact.frac (-1 / 3) = 2 / 3 ∧
    envRate exact 10 48000 = 1 / 480 := by decide +kernel

/-- R323: 2000.0. -/
theorem test_exact_read : (effect exactConfig (.rd 0x1A#8) (resetIn exactConfig)).responses = [0x44FA0000#32] := by decide +kernel

/-! ### A free function made monotone (R18, log 3) -/

/-- By hand: 9 at 4 is cut to 7 and bounds what follows; a monotone function is left as it is. -/
theorem test_bisect_repairs :
    (List.range 8).map (bisect (fun k => if k = 4 then 9 else k) 3 0 0 7) = [0, 1, 2, 3, 7, 7, 7, 7] ∧
    (List.range 8).map (bisect (fun k => k / 2) 3 0 0 7) = [0, 0, 1, 1, 2, 2, 3, 3] := by decide

/-- Program P3, frame 0. -/
theorem test_frame_reference :
    (voiceProcess (reference testRom (fun _ => F.zero)) 0 (voiceNoteOn hw false 69#7 127#7 (Voice.reset hw hw.resetParams))).1 = F.zero := by decide +kernel

/-! ### Witnesses: for each statement with hypotheses, operands and states that meet them, at boundary values -/

theorem test_witness_DecodeOfEncodeIsTheCommand :
    (Instr.setFltCutoff ⟨0xFF800000#32⟩).wf = true ∧ (Instr.rd 0x4F#8).wf = true ∧ (Instr.process 65535#32).wf = true ∧ (Instr.process 65536#32).wf = false ∧
      (Instr.process 65536#32).wfIn 17 = true ∧
      decode 0x0100000000007F45#64 = .ok (.noteOn 69#7 127#7) := by decide

theorem test_witness_CommandIsIdentifiedByOpcAndAddr :
    decode 0x0100000000007F45#64 = .ok (.noteOn 69#7 127#7) ∧ decode 0x01000000FFFFFFFF#64 = .ok (.noteOn 127#7 127#7) ∧
      opcOf 0x0100000000007F45#64 = opcOf 0x01000000FFFFFFFF#64 ∧
      addrOf 0x0100000000007F45#64 = addrOf 0x01000000FFFFFFFF#64 := by decide

theorem test_witness_DecodeFollowsTheOpcodeTable :
    (OpcodeRow.mk "SET_FLT_RES" .F 0x0100001B00000000#64 0xFFFFFFFF00000000#64) ∈ opcodeRows ∧
      OpcodeRow.selects ⟨"SET_FLT_RES", .F, 0x0100001B00000000#64, 0xFFFFFFFF00000000#64⟩ 0x0100001B7FC00000#64 = true ∧
      (OpcodeRow.mk "RD" .R 0x0200000000000000#64 0xFFFFFF0000000000#64) ∈ opcodeRows ∧
      OpcodeRow.selects ⟨"RD", .R, 0x0200000000000000#64, 0xFFFFFF0000000000#64⟩ 0x0200000500000000#64 = true := by decide

theorem test_witness_OperandsAreSlicesOfData :
    mapped 0x00#8 = true ∧ mapped 0x4F#8 = true ∧ opcOf 0x00FFFFFFFFFFFFFF#64 = 0x00#8 ∧
      (F.mk (dataOf 0x0100001B7FC00000#64)).isNaN = true ∧ (F.mk (dataOf 0x0100001B7F800000#64)).isNaN = false := by decide

theorem test_witness_RejectedWordsHaveTheSixCauses :
    decode 0xFF00000000000000#64 = .error .reservedOpc ∧ decode 0x0200010500000000#64 = .error .reservedField ∧
      decode 0x0080000000000000#64 = .error .reservedField ∧ decode 0x0000000100000000#64 = .error .nopPayload ∧
      decode 0x010000FF00000000#64 = .error .badWrite ∧ decode 0x0100000700000000#64 = .error .badWrite ∧
      decode 0x0100000F00000000#64 = .error .badWrite ∧ decode 0x0200005000000000#64 = .error .badRead ∧
      decode 0x0100002AFF800001#64 = .error .nanOperand := by
  refine ⟨rfl, rfl, rfl, rfl, rfl, rfl, rfl, rfl, rfl⟩

theorem test_witness_RegisterAddressMap : accessOf 0x05#8 = .unmapped ∧ accessOf 0xFF#8 = .unmapped := by decide

theorem test_witness_BytesAreLittleEndian : romLinear 7 255 2047 = 4194303 ∧ romLinear 0 0 0 = 0 := by decide

theorem test_witness_StepRunsTheDecodedCommand :
    playing.port = [0x0100001A447A0000#64] ∧ decode 0x0100001A447A0000#64 = .ok (.setFltCutoff ⟨0x447A0000#32⟩) ∧
      decode 0x0300000000000000#64 = .error .reservedOpc ∧ State.reset.port = [] := ⟨rfl, rfl, rfl, rfl⟩

theorem test_witness_NopChangesNothing : opcOf 0x0000000000000001#64 = 0x00#8 ∧ 0x0000000000000001#64 ≠ 0#64 := by decide

theorem test_witness_OscillatorSetters :
    F.one.isNaN = false ∧ quietNaN.isNaN = true ∧ WaveformKind.pwm ≠ .superSaw ∧ WaveformKind.superSaw ≠ .pwm := by decide

theorem test_witness_MixAndWavetableSetters :
    (F.mk 0xFF800000#32).isNaN = false ∧ (F.mk 0x7F800001#32).isNaN = true ∧ F.minusOne.isFinite = true := by decide

theorem test_witness_FilterSetters : (F.mk 0x4708B800#32).isNaN = false ∧ (F.mk 0xFFFFFFFF#32).isNaN = true := by decide

theorem test_witness_AmplitudeEnvelopeSetters : F.zero.isNaN = false ∧ quietNaN.isNaN = true := by decide

theorem test_witness_FilterEnvelopeSetters : (F.mk 0x7F800000#32).isNaN = false ∧ quietNaN.isNaN = true := by decide

theorem test_witness_LfoAndVolumeSetters : (F.mk 0x00000001#32).isNaN = false ∧ quietNaN.isNaN = true := by decide

theorem test_witness_SampleRateReachesEveryComponent : (F.mk 0x472C4400#32).isNaN = false ∧ quietNaN.isNaN = true := by
  decide

theorem test_witness_BioHrvSetsTheCutoff :
    F.half.isNaN = false ∧ (F.mk 0x80000000#32).isNaN = false ∧ quietNaN.isNaN = true := by decide

theorem test_witness_ReadRespondsAndChangesNothingElse :
    mapped 0x4F#8 = true ∧ mapped 0x50#8 = false ∧ State.reset.params.fltCutoff = ⟨0x44FA0000#32⟩ := by decide

theorem test_witness_RegisterReadLayout : (0x04#8).toNat ≤ 0x04 ∧ accessOf 0x05#8 = .unmapped ∧ accessOf 0x50#8 = .unmapped := by
  decide

theorem test_witness_ReadReturnsTheClampedValueWritten :
    (F.mk 0x4708B800#32).isNaN = false ∧ regRead 0x0B#8 playing = 1#32 ∧ regRead 0x40#8 playing = 0x00337F3C#32 := by
  decide +kernel

/-- The engine invariant and the filter bound hold of a state with a sounding voice and a word presented. -/
theorem test_witness_engineInv : EngineInv playing ∧ StagesBounded playing := by
  refine ⟨⟨?_, ?_, ?_⟩, ?_⟩
  · unfold InDomain InUnit InRange
    decide +kernel
  · unfold CopiesCurrent
    simp only [VoiceCopies, OscCopies, EnvCopies]
    decide +kernel
  · unfold VoicesSound
    simp only [VoiceSound, IsPhase, EnvSound, InUnit, InRange]
    decide +kernel
  · unfold StagesBounded
    simp only [FltBounded, IsStage, InRange]
    decide +kernel

theorem test_witness_steps : ∃ t, step playing = .next t := ⟨_, rfl⟩

theorem test_witness_WritingTheHeldValueChangesNothing : ∃ s, EngineInv s ∧ s.port ≠ [] :=
  ⟨playing, test_witness_engineInv.1, by decide⟩

theorem test_witness_OnlyNotesAndProcessTouchTheSound : ∃ t, exec (.setFltCutoff F.one) playing = .next t := ⟨_, rfl⟩

theorem test_witness_CommandErrorIsSticky :
    (∃ t, step playing = .next t) ∧ playing.cmdErr = true ∧ decode 0x0100000A00000001#64 = .ok (.clrStatus true) :=
  ⟨⟨_, rfl⟩, rfl, rfl⟩

theorem test_witness_StreamsOnlyGrow : (∃ t, step playing = .next t) ∧ ∃ t, exec (.noteOff 60#7) playing = .next t :=
  ⟨⟨_, rfl⟩, ⟨_, rfl⟩⟩

theorem test_witness_BroadcastGivesEveryGlobalParameter :
    InDomain playing ∧ VoiceCopies playing.params playing.sampleRate playing.voices[0] :=
  ⟨test_witness_engineInv.1.1, test_witness_engineInv.1.2.1 0⟩

theorem test_witness_NoteOnStartsTheVoice : InDomain playing ∧ allocate playing = 1 ∧ allocate crowded = 0 :=
  ⟨test_witness_engineInv.1.1, by decide, by decide⟩

theorem test_witness_NoteOffReleasesEveryMatchingVoice :
    active playing 0 = true ∧ playing.voices[0].note = 60#7 ∧ active playing 1 = false := by decide

/-- The hypotheses of the clauses over every configuration (R8): the machine's own, one with other parameters, and a state
with a word presented in another format. -/
theorem test_witness_parameters :
    hw.num = binary32 ∧ { hw with driveMax := F.four, tMin := F.two }.num = binary32 ∧ hw.driveMax.lt F.zero = false ∧
      Config.pwMax.lt Config.pwMin = false ∧ hw.tMax.lt hw.tMin = false ∧ F.one.lt F.zero = false ∧
      (effect { hw with driveMax := F.four } (.setFltDrive F.four) State.reset).params.fltDrive = F.four := by
  refine ⟨rfl, rfl, ?_⟩
  decide +kernel

theorem test_witness_EveryStepAnswersANextState :
    ∃ s : State.Of ℚ, s.port = [0#64] ∧ decodeIn exactConfig.frameCountBits 0#64 = .ok .nop ∧
      decodeIn exactConfig.frameCountBits 0x0300000000000000#64 = .error .reservedOpc :=
  ⟨{ resetIn exactConfig with port := [0#64] }, rfl, rfl, rfl⟩

theorem test_witness_ProcessSplitsIntoTwo : 65535 + 0 < 2 ^ 16 ∧ 1 + 65534 < 2 ^ 16 := by decide

theorem test_witness_InactiveVoicesAreFrozen :
    active playing 1 = false ∧ ∀ j : Fin 16, active State.reset j = false := by decide

/-- A voice one sample before its release ends. -/
def ending : Voice :=
  { sounding with ampEnv := { testEnv .release F.zero with relStart := F.half } }

theorem test_witness_OnlyProcessDeactivatesAVoice :
    active playing 0 = true ∧ voiceIsActive (voiceProcess hw 0 ending).2.1 = false ∧ active playing 1 = false ∧
      active (noteOn hw 60#7 0#7 playing) 1 = true := by decide

theorem test_witness_VoicesDoNotInteract :
    (∀ v : Fin 16, NoNoise playing.voices[v] ∧ NoNoise crowded.voices[v]) ∧ playing.voices[0] = crowded.voices[0] := by
  simp only [NoNoise]
  decide +kernel

theorem test_witness_EnvelopeTransitionsAreTheListedOnes :
    (testEnv .sustain F.half).stage ≠ .idle ∧ (testEnv .idle F.zero).stage = .idle := by decide

theorem test_witness_EnvelopeArms :
    (testEnv .attack F.zero).stage = .attack ∧ (testEnv .decay F.one).stage = .decay ∧
      (testEnv .sustain F.half).stage = .sustain ∧ (testEnv .release F.half).stage = .release := by decide

theorem test_witness_EnvelopeRatesArePositive :
    InRange hw.tMin hw.tMax hw.tMin ∧ InRange hw.tMin hw.tMax hw.tMax ∧ InRange hw.fsMin hw.fsMax hw.fsMin ∧
      InRange hw.fsMin hw.fsMax hw.fsMax := by
  unfold InRange
  decide +kernel

theorem test_witness_EnvelopeLevelStaysInTheUnitInterval :
    ∀ e ∈ [testEnv .attack F.zero, testEnv .decay F.one, { testEnv .release F.half with relStart := F.one }],
      EnvSound e ∧ InUnit e.sustain ∧
        (∀ r ∈ [e.aRate, e.dRate, e.rRate], r.isFinite = true ∧ F.zero.le r = true) ∧
        (e.stage = .decay → e.sustain.le e.level = true) := by
  simp only [EnvSound, InUnit, InRange]
  decide +kernel

theorem test_witness_PhaseStaysInTheUnitInterval :
    IsPhase F.zero ∧ IsPhase ⟨0x3F7FFFFF#32⟩ ∧ InRange F.zero F.half F.zero ∧ InRange F.zero F.half F.half ∧
      InRange hw.fsMin hw.fsMax hw.fsMin ∧ (F.mk 0x7F800000#32).isNaN = false ∧
      InRange Config.lfoMin Config.lfoMax Config.lfoMax := by
  unfold IsPhase InRange
  decide +kernel

/-- A configuration whose functions, ROM and draws are constant zero has the bounds. -/
def zeroConfig : Config := configWith binary32 (fun _ => F.zero) (fun _ => F.zero) (fun _ => F.zero) (fun _ _ _ => F.zero) (fun _ => F.zero)

theorem zero_isBipolar : IsBipolar F.zero := by
  unfold IsBipolar InRange
  decide

theorem test_witness_LfoShapesLieBetweenMinusOneAndOne :
    zeroConfig.num = binary32 ∧ SinBound zeroConfig ∧ DrawBounded zeroConfig ∧ IsPhase ⟨0x3F7FFFFF#32⟩ := by
  refine ⟨rfl, fun _ _ => zero_isBipolar, fun _ => zero_isBipolar, ?_⟩
  unfold IsPhase
  decide

theorem test_witness_OscillatorOutputIsBounded :
    zeroConfig.num = binary32 ∧ SinBound zeroConfig ∧ DrawBounded zeroConfig ∧ zeroConfig.ssUnit = Config.ssUnitDefault ∧ IsPhase F.zero ∧
      InRange F.zero F.half F.half ∧ InRange Config.pwMin Config.pwMax Config.pwMin ∧ InUnit F.one := by
  refine ⟨rfl, fun _ _ => zero_isBipolar, fun _ => zero_isBipolar, rfl, ?_⟩
  unfold IsPhase InUnit InRange
  decide

theorem test_witness_WavetableIndicesAreInsideTheBank : IsPhase ⟨0x3F7FFFFF#32⟩ ∧ InUnit F.zero ∧ InUnit F.one := by
  unfold IsPhase InUnit InRange
  decide

theorem test_witness_WavetableEndsAreExact :
    zeroConfig.num = binary32 ∧ RomBounded zeroConfig ∧ IsPhase F.quarter ∧ (splitPos binary32 (F.quarter.mul F.c2048)).2.mag = 0 := by
  refine ⟨rfl, fun _ _ _ => zero_isBipolar, ?_⟩
  unfold IsPhase
  decide

/-- A configuration whose `fexp2` is exact at the integers. -/
def exp2Config : Config :=
  configWith binary32 (fun _ => F.zero) (fun _ => F.zero) (conformExp2 (fun _ => 0#32)) (fun _ _ _ => F.zero) (fun _ => F.zero)

theorem exp2Config_at : ∀ k : Fin 254,
    exp2Config.fexp2 (F.itof ((k.val : Int) - 126)) = F.build false ((((k.val : Int) - 126) + 127).toNat * 2 ^ 23) := by
  decide +kernel

theorem test_witness_NoteFrequencies :
    exp2Config.num = binary32 ∧ Exp2Int exp2Config ∧ (((9#7).toNat : Int) - 69) % 12 = 0 ∧ (0#7).toNat ≤ (127#7).toNat := by
  refine ⟨rfl, ?_, by decide, by decide⟩
  intro n h1 h2
  have h := exp2Config_at ⟨(n + 126).toNat, by omega⟩
  have e : (((n + 126).toNat : Nat) : Int) - 126 = n := by omega
  simp only [e] at h
  exact h

theorem test_witness_VoiceRoutingValues :
    zeroConfig.num = binary32 ∧ IsBipolar F.minusOne ∧ { sounding with lfoToPitch := F.zero }.lfoToPitch = F.zero ∧ InUnit F.one ∧
      ending.ampEnv.stage = .release ∧ (envNext binary32 ending.ampEnv).stage = .idle ∧ InUnit ending.vel ∧
      sounding.baseCutoff = ⟨0x44FA0000#32⟩ ∧ sounding.envAmt = F.half ∧ sounding.lfoToFlt = F.zero ∧
      (voiceProcess zeroConfig 0 ending).2.1.flt.s3.isFinite = true := by
  refine ⟨rfl, ?_⟩
  unfold IsBipolar InUnit InRange
  decide +kernel

/-- A saturating `ftanh`: the sign of its argument. -/
def signConfig : Config :=
  { zeroConfig with ftanh := fun x => if F.zero.lt x then F.one else if x.lt F.zero then F.minusOne else F.zero,
                    gPoly := fun _ _ _ _ _ => F.one }

theorem signConfig_sat : TanhSat signConfig := by
  intro x
  constructor
  · intro h
    have h' := F.le_iff.1 h
    have : F.zero.lt x = true := F.lt_iff.2 ⟨by decide, h'.2.1, lt_of_lt_of_le (by decide +kernel) h'.2.2⟩
    simp [signConfig, this]
  · intro h
    have h' := F.le_iff.1 h
    have h1 : x.lt F.zero = true := F.lt_iff.2 ⟨h'.1, by decide, lt_of_le_of_lt h'.2.2 (by decide +kernel)⟩
    have h2 : F.zero.lt x = false := by
      rw [Bool.eq_false_iff]
      intro h3
      exact lt_asymm (F.lt_iff.1 h1).2.2 (F.lt_iff.1 h3).2.2
    simp [signConfig, h1, h2]

theorem test_witness_FilterStagesStayBounded :
    signConfig.num = binary32 ∧ TanhBound signConfig ∧ TanhSat signConfig ∧ GRange signConfig ∧ signConfig.fcMax = F.half ∧ F.one.isNaN = false ∧
      FltBounded (testFlt F.one F.one Config.cutMin Config.fsMinDefault) ∧ InUnit F.one ∧
      InRange Config.cutMin Config.cutMax Config.cutMax ∧
      InRange Config.fsMinDefault Config.fsMaxDefault Config.fsMinDefault := by
  refine ⟨rfl, fun x _ => ?_, signConfig_sat, fun _ _ => ?_, rfl, ?_⟩
  · show IsBipolar (if F.zero.lt x then F.one else if x.lt F.zero then F.minusOne else F.zero)
    unfold IsBipolar InRange
    split
    · decide
    · split <;> decide
  · show InRange F.zero ⟨0x3FA00000#32⟩ F.one
    unfold InRange
    decide
  · unfold FltBounded IsStage InUnit InRange
    decide +kernel

theorem test_witness_ArithmeticRoundsToNearestEven :
    (F.mk 0x7F7FFFFF#32).isFinite = true ∧ (F.mk 0x00000001#32).isFinite = true ∧ (F.mk 0x00000001#32).mag ≠ 0 ∧
      ((F.mk 0x00000001#32).mul ⟨0x00000001#32⟩).isFinite = true ∧ Overflows ((F.mk 0x7F7FFFFF#32).scaled - (F.mk 0xFF7FFFFF#32).scaled) 1 ∧
      ¬ Overflows (F.one.scaled - F.two.scaled) 1 ∧ ((F.mk 0x7F7FFFFF#32).div ⟨0x00000001#32⟩).isInf = true ∧
      F.zero.scaled + (F.signedZero true).scaled = 0 ∧ F.zero.add (F.signedZero true) = F.zero ∧
      (F.signedZero true).add (F.signedZero true) = F.signedZero true ∧ F.one.scaled = F.one.scaled ∧ F.zero.mag = 0 ∧
      F.one.div (F.signedZero true) = F.inf true ∧ quietNaN.isNaN = true := by
  unfold Overflows
  decide +kernel

theorem test_witness_ComparisonsAndClamp :
    quietNaN.isNaN = true ∧ F.one.isNaN = false ∧ F.zero.le F.one = true ∧ F.minusOne.lt F.zero = true ∧
      F.one.lt F.two = true ∧ InRange F.zero F.one F.zero ∧ InRange F.zero F.one F.one ∧ F.zero.isFinite = true := by
  unfold InRange
  decide

theorem test_witness_FloorFracAndConversionsAreExact :
    (F.mk 0x7F7FFFFF#32).isFinite = true ∧ (F.itof 16777216).scaled = 16777216 * (F.unit : Int) ∧
      F.zero.le F.zero = true ∧ (F.mk 0x3FFFFFFF#32).lt F.two = true := by decide +kernel

theorem test_witness_EveryStepKeepsTheEngineInvariant : ∃ s t, EngineInv s ∧ step s = .next t ∧ s.port ≠ [] :=
  ⟨playing, _, test_witness_engineInv.1, rfl, by decide⟩

/-- `playing`, with `PROCESS 1` presented: the next step emits a frame of a sounding voice. -/
def rendering : State := { playing with port := [0x0100000200000001#64] }

theorem test_witness_EveryStepKeepsTheFilterBound :
    ∃ s t, EngineInv s ∧ StagesBounded s ∧ step s = .next t ∧ active s 0 = true ∧ t.draws = s.draws ∧
      t.frames.length = s.frames.length + 1 :=
  ⟨rendering, _, test_witness_engineInv.1, test_witness_engineInv.2, rfl, by decide, by decide +kernel, by decide +kernel⟩

theorem test_witness_EveryEmittedFrameIsFinite :
    ∃ s t, EngineInv s ∧ StagesBounded s ∧ step s = .next t ∧ active s 0 = true ∧ t.frames.length = s.frames.length + 1 :=
  ⟨rendering, _, test_witness_engineInv.1, test_witness_engineInv.2, rfl, by decide, by decide +kernel⟩


end Tests

end Sys2Proof
end

section
/-! The comparisons and the clamp (00_scope.md R14, R15), and what rounding a fraction to binary32 gives (R13): the result
is infinite exactly from the overflow threshold on, and otherwise it is the nearest number, an even one at a tie. -/

namespace Sys2Proof

namespace F

/-! ### Zeros, infinities and NaNs -/

theorem not_isNaN_of_mag_zero {x : F} (h : x.mag = 0) : x.isNaN = false :=
  isFinite_not_isNaN ((mag_lt_inf_iff x).2 (by rw [h]; positivity))

theorem scaled_of_mag_zero {x : F} (h : x.mag = 0) : x.scaled = 0 := by
  rw [← Int.natAbs_eq_zero, scaled_natAbs, h]

@[simp] theorem inf_not_isNaN (p : Bool) : (inf p).isNaN = false := build_not_isNaN p _ le_rfl

@[simp] theorem inf_isInf (p : Bool) : (inf p).isInf = true := (isInf_iff _).2 (low31_build p _ le_rfl)

@[simp] theorem inf_sign (p : Bool) : (inf p).sign = p := sign_build p _ le_rfl

theorem magOfBits_infBits : magOfBits infBits = 2 ^ 277 := by decide +kernel

theorem inf_mag (p : Bool) : (inf p).mag = 2 ^ 277 := (mag_build p _ le_rfl).trans magOfBits_infBits

@[simp] theorem inf_mag_ne_zero (p : Bool) : (inf p).mag ≠ 0 := by rw [inf_mag]; positivity

@[simp] theorem inf_neg (p : Bool) : (inf p).neg = inf !p := by cases p <;> decide

/-- The magnitude of a number that is not a NaN is at most that of an infinity. -/
theorem mag_le_inf {x : F} (h : x.isNaN = false) : x.mag ≤ 2 ^ 277 := by
  rw [mag_eq, ← magOfBits_infBits, magOfBits_le_iff ((isNaN_false_iff x).1 h) le_rfl]
  exact (isNaN_false_iff x).1 h

/-- The bits that `asNaN` sets make any pattern a NaN. -/
theorem asNaN_isNaN (b : BitVec 32) : (asNaN b).isNaN = true := by
  unfold asNaN
  split_ifs with h
  · exact h
  · have hle : 0x7FC00000 % 2 ^ 31 ≤ (b.toNat ||| 0x7FC00000) % 2 ^ 31 := by
      rw [Nat.or_mod_two_pow]; exact Nat.right_le_or
    rw [isNaN_iff]
    show infBits < (b ||| 0x7FC00000#32).toNat % 2 ^ 31
    rw [BitVec.toNat_or]
    exact lt_of_lt_of_le (by decide) hle

theorem madeNaN_isNaN (op : Nat) (a b : F) : (madeNaN op a b).isNaN = true := asNaN_isNaN _

/-! ### Clamping an infinity (R15) -/

theorem lt_inf_false {x : F} (hx : x.isFinite = true) : x.lt (inf false) = true := by
  refine lt_iff.2 ⟨isFinite_not_isNaN hx, inf_not_isNaN _, ?_⟩
  have hm := (mag_lt_inf_iff x).1 hx
  have hs := scaled_natAbs x
  rw [scaled_nonneg_of_sign (inf_sign false), inf_mag]
  omega

theorem inf_true_lt {x : F} (hx : x.isFinite = true) : (inf true).lt x = true := by
  refine lt_iff.2 ⟨inf_not_isNaN _, isFinite_not_isNaN hx, ?_⟩
  have hm := (mag_lt_inf_iff x).1 hx
  have hs := scaled_natAbs x
  rw [scaled_of_sign_true (inf_sign true), inf_mag]
  omega

theorem lt_asymm_of_le {x lo hi : F} (h : lo.le hi = true) (hx : hi.lt x = true) : x.lt lo = false := by
  obtain ⟨hlo, -, hle⟩ := le_iff.1 h
  obtain ⟨-, hxn, hlt⟩ := lt_iff.1 hx
  exact (lt_false_iff hxn hlo).2 (by omega)

theorem clamp_of_lt {x lo hi : F} (h : x.lt lo = true) : x.clamp lo hi = lo := by rw [clamp_eq, if_pos h]

theorem clamp_of_gt {x lo hi : F} (h : lo.le hi = true) (hx : hi.lt x = true) : x.clamp lo hi = hi := by
  rw [clamp_eq, lt_asymm_of_le h hx, if_pos hx]
  rfl

theorem clamp_of_isNaN {x lo hi : F} (h : x.isNaN = true) : x.clamp lo hi = x := by simp [clamp_eq, lt, h]

end F

namespace Machine

/-- Settles O54: each comparison is the comparison of the signed values, and each branch of `clamp` follows from it. -/
theorem comparisonsAndClamp : Obligations.ComparisonsAndClamp := by
  refine ⟨fun a b h => ?_, fun a b ha hb => ?_, by decide, fun _ => rfl, fun x lo hi h =>
    ⟨F.clamp_of_lt, F.clamp_of_gt h, F.clamp_of_within, F.clamp_of_isNaN, fun hlo hhi =>
      ⟨F.clamp_of_gt h (F.lt_inf_false hhi), F.clamp_of_lt (F.inf_true_lt hlo)⟩⟩⟩
  · rcases h with h | h <;> simp [F.lt, F.le, F.eqv, h]
  · simp [F.lt, F.le, F.eqv, ha, hb]

end Machine

namespace F

/-! ### The rounded magnitude (R13) -/

/-- The significand that `magBits` rounds to at the last place of `n / d`. -/
def roundedSig (n d : Nat) : Nat := roundHalfEven n (d * 2 ^ lastPlace (n / d))

theorem magBits_eq (n d : Nat) : magBits n d = min (lastPlace (n / d) * 2 ^ 23 + roundedSig n d) infBits := rfl

/-- Exponent step `s` and significand `q`, added in the bit fields, stand for `q * 2 ^ s`; so also when the significand
carries into the exponent field. -/
theorem magOfBits_add {s q : Nat} (hq : q ≤ 2 ^ 24) (hs : 0 < s → 2 ^ 23 ≤ q) : magOfBits (s * 2 ^ 23 + q) = q * 2 ^ s := by
  unfold magOfBits
  rcases Nat.lt_or_ge q (2 ^ 23) with hsub | hnorm
  · obtain rfl : s = 0 := by omega
    rw [if_pos (by omega)]
    omega
  rcases Nat.lt_or_eq_of_le hq with hlt | rfl
  · have he : (s * 2 ^ 23 + q) / 2 ^ 23 = s + 1 := by omega
    have hf : (s * 2 ^ 23 + q) % 2 ^ 23 = q - 2 ^ 23 := by omega
    rw [he, hf, if_neg (by omega), Nat.add_sub_cancel, Nat.add_sub_cancel' hnorm]
  · have he : (s * 2 ^ 23 + 2 ^ 24) / 2 ^ 23 = s + 2 := by omega
    have hf : (s * 2 ^ 23 + 2 ^ 24) % 2 ^ 23 = 0 := by omega
    rw [he, hf, if_neg (by omega), Nat.add_sub_assoc (by omega), pow_add]
    ring

/-- 2^277 - 2^252, half a last place beyond the greatest finite magnitude, in units of 2^-149. -/
def overflowMag : Nat := (2 ^ 25 - 1) * 2 ^ 252

theorem overflowMag_pos : 0 < overflowMag := by decide +kernel

/-- From the overflow threshold on the rounded bits are those of an infinity. -/
theorem magBits_of_overflow {n d : Nat} (hd : 0 < d) (h : overflowMag * d ≤ n) : magBits n d = infBits := by
  refine le_antisymm (magBits_le_infBits n d) ?_
  calc infBits = magBits overflowMag 1 := by decide +kernel
    _ ≤ magBits n d := magBits_mono _ _ _ _ one_pos hd (by omega)

/-- Below the overflow threshold the rounded bits are below those of an infinity. -/
theorem sig_lt_infBits {n d : Nat} (hd : 0 < d) (h : n < overflowMag * d) :
    lastPlace (n / d) * 2 ^ 23 + roundedSig n d < infBits := by
  have hsig : roundedSig n d ≤ 2 ^ 24 := roundHalfEven_le_of_lastPlace n d hd
  have hs : lastPlace (n / d) ≤ 253 :=
    calc lastPlace (n / d) ≤ lastPlace overflowMag := lastPlace_mono ((Nat.div_lt_iff_lt_mul hd).2 h).le
      _ = 253 := by decide +kernel
  rcases Nat.lt_or_eq_of_le hs with hs | hs
  · unfold infBits; omega
  · obtain ⟨hle, -⟩ := roundHalfEven_bounds n (d * 2 ^ 253) (by positivity)
    have hlt : roundHalfEven n (d * 2 ^ 253) < 2 ^ 24 := by
      unfold overflowMag at h
      by_contra hc
      have := Nat.mul_le_mul_right (d * 2 ^ 253) (not_lt.1 hc)
      omega
    unfold roundedSig infBits
    rw [hs]
    omega

theorem ofRatio_isInf_iff (neg : Bool) {n d : Nat} (hd : 0 < d) :
    (ofRatio neg n d).isInf = true ↔ overflowMag * d ≤ n := by
  rw [isInf_iff, ofRatio, low31_build _ _ (magBits_le_infBits n d)]
  refine ⟨fun h => ?_, magBits_of_overflow hd⟩
  by_contra hc
  have := sig_lt_infBits hd (not_le.1 hc)
  rw [magBits_eq] at h
  omega

section
variable {n d : Nat} (hd : 0 < d) (h : n < overflowMag * d)
include hd h

theorem low31_ofRatio (neg : Bool) : (ofRatio neg n d).low31 = lastPlace (n / d) * 2 ^ 23 + roundedSig n d := by
  rw [ofRatio, low31_build _ _ (magBits_le_infBits n d), magBits_eq, min_eq_left (sig_lt_infBits hd h).le]

theorem ofRatio_isFinite (neg : Bool) : (ofRatio neg n d).isFinite = true := by
  rw [isFinite_iff, low31_ofRatio hd h]; exact sig_lt_infBits hd h

theorem mag_ofRatio (neg : Bool) : (ofRatio neg n d).mag = roundedSig n d * 2 ^ lastPlace (n / d) := by
  rw [mag_eq, low31_ofRatio hd h]
  exact magOfBits_add (roundHalfEven_le_of_lastPlace n d hd) (le_roundHalfEven_of_lastPlace n d hd)

/-- The last bit of the rounded number is that of its significand. -/
theorem even_ofRatio_iff (neg : Bool) : (ofRatio neg n d).bits.toNat % 2 = 0 ↔ roundedSig n d % 2 = 0 := by
  have hlow := low31_ofRatio hd h neg
  unfold low31 at hlow
  omega

end

/-! ### The rounded magnitude is the nearest one -/

/-- Every magnitude is a multiple of a given last place or lies below the numbers that have it. -/
theorem dvd_mag_or_lt (s : Nat) (y : F) : 2 ^ s ∣ y.mag ∨ 0 < s ∧ y.mag < 2 ^ (s + 23) := by
  rcases Nat.eq_zero_or_pos s with rfl | hs
  · exact .inl (one_dvd _)
  rw [mag_eq]
  unfold magOfBits
  have hf := Nat.mod_lt y.low31 (show 0 < 2 ^ 23 by norm_num)
  split_ifs
  · exact .inr ⟨hs, lt_of_lt_of_le hf (Nat.pow_le_pow_right (by norm_num) (by omega))⟩
  · rcases Nat.lt_or_ge (y.low31 / 2 ^ 23 - 1) s with hlt | hge
    · refine .inr ⟨hs, ?_⟩
      calc (2 ^ 23 + y.low31 % 2 ^ 23) * 2 ^ (y.low31 / 2 ^ 23 - 1)
          < 2 ^ 24 * 2 ^ (y.low31 / 2 ^ 23 - 1) := Nat.mul_lt_mul_of_pos_right (by omega) (by positivity)
        _ = 2 ^ (24 + (y.low31 / 2 ^ 23 - 1)) := (pow_add ..).symm
        _ ≤ 2 ^ (s + 23) := Nat.pow_le_pow_right (by norm_num) (by omega)
    · exact .inl (Dvd.dvd.mul_left (pow_dvd_pow 2 hge) _)

/-- `roundHalfEven n d` is the integer nearest to `n / d`, the even one at a tie: it lies within half a unit, and any other
integer is a unit away from it. -/
theorem roundHalfEven_nearest (n d k : Nat) (hd : 0 < d) :
    |(roundHalfEven n d * d : Int) - n| ≤ |(k * d : Int) - n| ∧
      (k ≠ roundHalfEven n d → |(roundHalfEven n d * d : Int) - n| = |(k * d : Int) - n| → roundHalfEven n d % 2 = 0) := by
  obtain ⟨hup, hlow, hupEven, hlowEven⟩ := roundHalfEven_bounds n d hd
  generalize roundHalfEven n d = q at *
  have hgap : k ≠ q → k * d + d ≤ q * d ∨ q * d + d ≤ k * d := fun hne => by
    rcases Nat.lt_or_gt_of_ne hne with hlt | hgt
    · exact .inl (by have := Nat.mul_le_mul_right d hlt; rwa [Nat.succ_mul] at this)
    · exact .inr (by have := Nat.mul_le_mul_right d hgt; rwa [Nat.succ_mul] at this)
  rcases eq_or_ne k q with rfl | hne
  · exact ⟨le_rfl, fun h => absurd rfl h⟩
  · have hgap := hgap hne
    rw [← Nat.cast_mul, ← Nat.cast_mul]
    simp only [Int.abs_eq_natAbs]
    omega

/-- The rounded magnitude is no further from `n / d` than that of any other number, and is even where one is as near. -/
theorem roundedSig_nearest {n d : Nat} (hd : 0 < d) (y : F) :
    |(roundedSig n d * 2 ^ lastPlace (n / d) * d : Int) - n| ≤ |(y.mag * d : Int) - n| ∧
      (y.mag ≠ roundedSig n d * 2 ^ lastPlace (n / d) →
        |(roundedSig n d * 2 ^ lastPlace (n / d) * d : Int) - n| = |(y.mag * d : Int) - n| → roundedSig n d % 2 = 0) := by
  have hs := @pow_le_of_lastPlace_pos (n / d)
  unfold roundedSig
  generalize lastPlace (n / d) = s at *
  have hp : 0 < d * 2 ^ s := by positivity
  have hcomm (k : Nat) : (k * (d * 2 ^ s : Nat) : Int) = k * 2 ^ s * d := by push_cast; ring
  rcases dvd_mag_or_lt s y with ⟨k, hk⟩ | ⟨hpos, hlt⟩
  · obtain ⟨hle, heven⟩ := roundHalfEven_nearest n (d * 2 ^ s) k hp
    rw [hcomm, hcomm] at hle heven
    have hy : (y.mag : Int) = k * 2 ^ s := by rw [hk]; push_cast; ring
    rw [hy]
    refine ⟨hle, fun hne => heven ?_⟩
    rintro rfl
    exact hne (by rw [hk, Nat.mul_comm])
  · -- the least number with this last place lies between `y` and `n / d`
    have hn := (Nat.le_div_iff_mul_le hd).1 (hs hpos)
    obtain ⟨hle, -⟩ := roundHalfEven_nearest n (d * 2 ^ s) (2 ^ 23) hp
    have hlt := Nat.mul_lt_mul_of_pos_right hlt hd
    have hleast : ((2 ^ 23 : Nat) * (d * 2 ^ s : Nat) : Int) = (2 ^ (s + 23) * d : Nat) := by
      push_cast; rw [pow_add]; ring
    rw [hcomm, hleast] at hle
    rw [← Nat.cast_mul]
    simp only [Int.abs_eq_natAbs] at *
    omega

/-- A finite rounded number is no further from `n / d` than any other number, and even where one is as near. -/
theorem mag_ofRatio_nearest (neg : Bool) {n d : Nat} (hd : 0 < d) (h : n < overflowMag * d) (y : F) :
    |((ofRatio neg n d).mag * d : Int) - n| ≤ |(y.mag * d : Int) - n| ∧
      (y.mag ≠ (ofRatio neg n d).mag → |((ofRatio neg n d).mag * d : Int) - n| = |(y.mag * d : Int) - n| →
        (ofRatio neg n d).bits.toNat % 2 = 0) := by
  rw [even_ofRatio_iff hd h, mag_ofRatio hd h]
  push_cast
  exact roundedSig_nearest hd y

/-- The distance of a number from a fraction of the sign `neg`, told from the magnitudes. -/
theorem abs_scaled_sub (y : F) (neg : Bool) {z : Int} (hz : z = if neg then -(z.natAbs : Int) else z.natAbs) (d : Nat) :
    |y.scaled * d - z| = if y.sign = neg then |(y.mag * d : Int) - z.natAbs| else y.mag * d + z.natAbs := by
  have hd : ((y.mag * d : Nat) : Int) = y.mag * d := Nat.cast_mul ..
  unfold scaled
  cases hs : y.sign <;> cases neg <;>
    simp only [Bool.false_eq_true, Bool.true_eq_false, if_true, if_false, neg_mul, ← hd] at hz ⊢ <;>
    simp only [Int.abs_eq_natAbs] <;> omega

end F

namespace Machine

open F

/-- The exact value and the rounded number have the same sign, and a number of the other sign is as near only if it is a
zero. -/
theorem nearestEven_ofRatio {neg : Bool} {z : Int} {d : Nat} (hd : 0 < d)
    (hz : z = if neg then -(z.natAbs : Int) else z.natAbs) (h : z.natAbs < overflowMag * d) :
    NearestEven z d (ofRatio neg z.natAbs d) := by
  intro y _
  obtain ⟨hle, heven⟩ := mag_ofRatio_nearest neg hd h y
  obtain ⟨hzero, -⟩ := mag_ofRatio_nearest neg hd h F.zero
  rw [show F.zero.mag = 0 by decide] at hzero
  rw [abs_scaled_sub _ neg hz, abs_scaled_sub y neg hz, if_pos (sign_ofRatio ..)]
  have hsign := sign_ofRatio neg z.natAbs d
  generalize ofRatio neg z.natAbs d = r at *
  split_ifs with hy
  · refine ⟨hle, fun hne => heven fun hmag => hne ?_⟩
    unfold scaled
    rw [hy, hsign, hmag]
  · have hyd : (0 : Int) ≤ y.mag * d := by positivity
    rw [Nat.cast_zero, zero_mul, zero_sub, abs_neg, Nat.abs_cast] at hzero
    refine ⟨by omega, fun hne htie => ?_⟩
    have hymag : y.mag = 0 := by
      have hyd0 : (y.mag * d : Int) = 0 := by omega
      exact (Nat.mul_eq_zero.1 (by exact_mod_cast hyd0)).resolve_right hd.ne'
    rw [hymag] at heven htie
    refine heven (fun hr => hne ?_) (by simpa using htie)
    rw [scaled_of_mag_zero hymag, scaled_of_mag_zero hr.symm]

theorem overflows_iff {z : Int} {d : Nat} : Overflows z d ↔ overflowMag * d ≤ z.natAbs := by
  have hcast : ((overflowMag : Nat) : Int) = 2 ^ 277 - 2 ^ 252 := by
    calc ((overflowMag : Nat) : Int) = (2 ^ 25 - 1) * 2 ^ 252 := Nat.cast_mul ..
      _ = 2 ^ (25 + 252) - 2 ^ 252 := by rw [pow_add]; ring
  unfold Overflows
  rw [Int.abs_eq_natAbs, ← hcast, ← Nat.cast_mul, Nat.cast_le]

theorem roundsTo_ofRatio {neg : Bool} {z : Int} {d : Nat} (hd : 0 < d)
    (hz : z = if neg then -(z.natAbs : Int) else z.natAbs) : RoundsTo z d (ofRatio neg z.natAbs d) := by
  refine ⟨(ofRatio_isInf_iff neg hd).trans overflows_iff.symm, fun hinf => ?_, fun hno => ?_⟩
  · have hpos : 0 < overflowMag * d := Nat.mul_pos overflowMag_pos hd
    have hle := (ofRatio_isInf_iff neg hd).1 hinf
    rw [sign_ofRatio]
    cases neg with
    | false => have hz : z = z.natAbs := hz; exact (decide_eq_false (by omega)).symm
    | true => have hz : z = -(z.natAbs : Int) := hz; exact (decide_eq_true (by omega)).symm
  · have hlt : z.natAbs < overflowMag * d := by rwa [overflows_iff, not_le] at hno
    exact ⟨ofRatio_isFinite hd hlt neg, nearestEven_ofRatio hd hz hlt⟩

/-! ### The four operations on finite operands -/

/-- A sum is rounded as a fraction is, a zero sum being the zero of the sign given. -/
theorem ofSum_eq_ofRatio (z : Int) (b : Bool) : ofSum z b = ofRatio (if z = 0 then b else decide (z < 0)) z.natAbs 1 := by
  unfold ofSum
  split_ifs with h
  · subst h; rfl
  · rfl

theorem roundsTo_ofSum (z : Int) (b : Bool) : RoundsTo z 1 (ofSum z b) := by
  rw [ofSum_eq_ofRatio]
  refine roundsTo_ofRatio (d := 1) one_pos ?_
  rcases lt_trichotomy z 0 with h | rfl | h
  · rw [if_neg h.ne, if_pos (decide_eq_true h)]; omega
  · simp
  · rw [if_neg h.ne', if_neg (by simpa using h.le)]; omega

section
variable {a b : F} (ha : a.isFinite = true) (hb : b.isFinite = true)
include ha hb

theorem add_roundsTo : RoundsTo (a.scaled + b.scaled) 1 (a.add b) := by
  rw [add_finite ha hb]; exact roundsTo_ofSum _ _

theorem sub_roundsTo : RoundsTo (a.scaled - b.scaled) 1 (a.sub b) := by
  rw [sub_finite ha hb]; exact roundsTo_ofSum _ _

theorem mul_roundsTo : RoundsTo (a.scaled * b.scaled) (2 ^ 149) (a.mul b) := by
  rw [mul_eq_ofRatio ha hb]
  exact roundsTo_ofRatio unit_pos (mul_sign_form a b)

theorem div_roundsTo (h0 : b.mag ≠ 0) : RoundsTo (a.scaled * b.scaled.sign * 2 ^ 149) |b.scaled| (a.div b) := by
  have hb0 : 0 < b.mag := Nat.pos_of_ne_zero h0
  have hval : a.scaled * b.scaled.sign * 2 ^ 149 =
      if (a.sign != b.sign) = true then -((a.mag * unit : Nat) : Int) else ((a.mag * unit : Nat) : Int) := by
    have hsign : b.scaled.sign = if b.sign then -1 else 1 := by
      unfold scaled
      split_ifs
      · exact Int.sign_eq_neg_one_of_neg (by omega)
      · exact Int.sign_eq_one_of_pos (by omega)
    have hunit : ((a.mag * unit : Nat) : Int) = a.mag * 2 ^ 149 := Nat.cast_mul ..
    rw [hsign, hunit]
    unfold scaled
    cases a.sign <;> cases b.sign <;> simp
  have habs : (a.scaled * b.scaled.sign * 2 ^ 149).natAbs = a.mag * unit := by
    rw [hval]; split_ifs <;> simp only [Int.natAbs_neg, Int.natAbs_natCast]
  rw [div_finite ha hb h0, Int.abs_eq_natAbs, scaled_natAbs, ← habs]
  exact roundsTo_ofRatio hb0 (by rw [habs]; exact hval)

theorem add_zero_sum (h : a.scaled + b.scaled = 0) : a.add b = signedZero (a.sign && b.sign) := by
  rw [add_finite ha hb, h]; rfl

theorem sub_zero_difference (h : a.scaled = b.scaled) : a.sub b = signedZero (a.sign && !b.sign) := by
  rw [sub_finite ha hb, h, Int.sub_self]; rfl

theorem mul_sign : (a.mul b).sign = (a.sign != b.sign) := by rw [mul_finite ha hb, sign_ofRatio]

theorem div_sign (h0 : b.mag ≠ 0) : (a.div b).sign = (a.sign != b.sign) := by rw [div_finite ha hb h0, sign_ofRatio]

theorem div_by_zero (h0 : b.mag = 0) :
    if a.mag = 0 then (a.div b).isNaN = true else a.div b = inf (a.sign != b.sign) := by
  unfold div
  rw [isFinite_not_isNaN ha, isFinite_not_isNaN hb, isFinite_not_isInf ha, isFinite_not_isInf hb]
  by_cases h : a.mag = 0 <;> simp [h0, h, madeNaN_isNaN]

end

/-! ### Infinities and NaNs -/

section
variable (p : Bool) {b : F} (hb : b.isFinite = true)
include hb

theorem inf_add_finite : (inf p).add b = inf p := by
  simp [add, isFinite_not_isNaN hb, isFinite_not_isInf hb]

theorem finite_add_inf : b.add (inf p) = inf p := by
  simp [add, isFinite_not_isNaN hb, isFinite_not_isInf hb]

theorem inf_sub_finite : (inf p).sub b = inf p := inf_add_finite p (by rwa [isFinite_neg])

theorem finite_sub_inf : b.sub (inf p) = inf !p := by
  unfold sub; rw [inf_neg]; exact finite_add_inf (!p) hb

theorem inf_mul_finite :
    if b.mag = 0 then ((inf p).mul b).isNaN = true ∧ (b.mul (inf p)).isNaN = true
    else (inf p).mul b = inf (p != b.sign) ∧ b.mul (inf p) = inf (b.sign != p) := by
  split_ifs with h <;> simp [mul, isFinite_not_isNaN hb, h, madeNaN_isNaN]

theorem inf_div_finite : (inf p).div b = inf (p != b.sign) := by
  simp [div, isFinite_not_isNaN hb, isFinite_not_isInf hb]

theorem finite_div_inf : b.div (inf p) = signedZero (b.sign != p) := by
  simp [div, isFinite_not_isNaN hb, isFinite_not_isInf hb]

end

theorem inf_add_inf (p q : Bool) :
    if p = q then (inf p).add (inf q) = inf p else ((inf p).add (inf q)).isNaN = true := by
  split_ifs with h <;> simp [add, h, madeNaN_isNaN]

theorem inf_sub_inf (p q : Bool) :
    if p = q then ((inf p).sub (inf q)).isNaN = true else (inf p).sub (inf q) = inf p := by
  have h := inf_add_inf p !q
  unfold sub
  rw [inf_neg]
  cases p <;> cases q <;> exact h

theorem inf_mul_inf (p q : Bool) : (inf p).mul (inf q) = inf (p != q) := by simp [mul]

theorem inf_div_inf (p q : Bool) : ((inf p).div (inf q)).isNaN = true := by simp [div, madeNaN_isNaN]

/-- A NaN operand makes every operation a NaN. -/
theorem nan_operand {a b : F} (h : a.isNaN = true ∨ b.isNaN = true) :
    (a.add b).isNaN = true ∧ (a.sub b).isNaN = true ∧ (a.mul b).isNaN = true ∧ (a.div b).isNaN = true := by
  have hor : (a.isNaN || b.isNaN) = true := by simpa using h
  simp [add, sub, mul, div, isNaN_neg, hor, madeNaN_isNaN]

/-- Settles O53: for finite operands every operation is one rounding of its exact fraction (`roundsTo_ofRatio`), and for the
others the definitions say the result. -/
theorem arithmeticRoundsToNearestEven : Obligations.ArithmeticRoundsToNearestEven :=
  ⟨fun _ _ ha hb => ⟨add_roundsTo ha hb, sub_roundsTo ha hb, mul_roundsTo ha hb, div_roundsTo ha hb, add_zero_sum ha hb,
      sub_zero_difference ha hb, mul_sign ha hb, div_sign ha hb, div_by_zero ha hb⟩,
    fun p _ hb => ⟨inf_add_finite p hb, finite_add_inf p hb, inf_sub_finite p hb, finite_sub_inf p hb, inf_mul_finite p hb,
      inf_div_finite p hb, finite_div_inf p hb⟩,
    fun p q => ⟨inf_add_inf p q, inf_sub_inf p q, inf_mul_inf p q, inf_div_inf p q⟩,
    fun _ _ => nan_operand⟩

end Machine
end Sys2Proof
end

section
/-! The conversions and helpers of 00_scope.md R16: integers up to 2^24 and the floor of every number convert exactly, and
`Frac` and `Wrap` give phases. -/

namespace Sys2Proof

namespace F

/-! ### Exact conversion of integers -/

/-- A magnitude below the overflow threshold is kept exactly when it is a multiple of its last place. -/
theorem mag_ofRatio_of_dvd (neg : Bool) {n : Nat} (h : n < overflowMag) (hdvd : 2 ^ lastPlace n ∣ n) :
    (ofRatio neg n 1).mag = n := by
  obtain ⟨k, hk⟩ := hdvd
  have hsig : roundedSig n 1 = k := by
    rw [roundedSig, Nat.div_one, Nat.one_mul]
    conv_lhs => arg 1; rw [hk, Nat.mul_comm]
    exact roundHalfEven_exact k _ (by positivity)
  rw [mag_ofRatio one_pos (by rwa [Nat.mul_one]), hsig, Nat.div_one, Nat.mul_comm]
  exact hk.symm

/-- An integer up to 2^24 is a multiple of its last place. -/
theorem lastPlace_dvd_mul_unit {k : Nat} (h : k ≤ 2 ^ 24) : 2 ^ lastPlace (k * unit) ∣ k * unit := by
  have hle : lastPlace (k * unit) ≤ 150 :=
    calc lastPlace (k * unit) ≤ lastPlace (2 ^ 24 * unit) := lastPlace_mono (Nat.mul_le_mul_right _ h)
      _ = 150 := by decide +kernel
  rcases Nat.lt_or_eq_of_le hle with hlt | heq
  · exact Dvd.dvd.mul_left (pow_dvd_pow 2 (by omega)) k
  · have hk : 2 ^ 24 ≤ k := by
      have hpow := pow_le_of_lastPlace_pos (q := k * unit) (by omega)
      rw [heq] at hpow
      exact Nat.le_of_mul_le_mul_right hpow unit_pos
    rw [heq, le_antisymm h hk]
    decide +kernel

theorem mul_unit_lt_overflowMag {k : Nat} (h : k ≤ 2 ^ 24) : k * unit < overflowMag :=
  calc k * unit ≤ 2 ^ 24 * unit := Nat.mul_le_mul_right _ h
    _ < overflowMag := by decide +kernel

/-- A conversion whose magnitude is kept is exact. -/
theorem scaled_itof {n : Int} (h : (itof n).mag = n.natAbs * unit) : (itof n).scaled = n * (unit : Int) := by
  have hs := scaled_ofRatio (decide (n < 0)) (n.natAbs * unit) 1
  change (itof n).scaled = if decide (n < 0) then -((itof n).mag : Int) else (itof n).mag at hs
  rw [hs, h, Nat.cast_mul]
  rcases lt_or_ge n 0 with hn | hn
  · rw [if_pos (decide_eq_true hn), ← neg_mul]; congr 1; omega
  · rw [if_neg (by simpa using hn)]; congr 1; omega

theorem itof_isFinite {n : Int} (h : n.natAbs ≤ 2 ^ 24) : (itof n).isFinite = true :=
  ofRatio_isFinite one_pos (by rw [Nat.mul_one]; exact mul_unit_lt_overflowMag h) _

/-- Integers of magnitude at most 2^24 convert exactly (R16). -/
theorem scaled_itof_of_le {n : Int} (h : n.natAbs ≤ 2 ^ 24) : (itof n).scaled = n * (unit : Int) :=
  scaled_itof (mag_ofRatio_of_dvd _ (mul_unit_lt_overflowMag h) (lastPlace_dvd_mul_unit h))

/-! ### The floor -/

theorem floor_mul_le (x : F) : x.floor * (unit : Int) ≤ x.scaled := Int.ediv_mul_le _ (by exact_mod_cast unit_pos.ne')

theorem lt_floor_add_one_mul (x : F) : x.scaled < (x.floor + 1) * (unit : Int) :=
  Int.lt_ediv_add_one_mul_self _ (by exact_mod_cast unit_pos)

/-- The floor of a finite number converts exactly: a number of 2^23 or more is its own floor, and the floor of any other is
small. -/
theorem itof_floor {x : F} (hx : x.isFinite = true) :
    (itof x.floor).isFinite = true ∧ (itof x.floor).scaled = x.floor * (unit : Int) := by
  have hpos : (0 : Int) < unit := by exact_mod_cast unit_pos
  rcases dvd_mag_or_lt 149 x with hdvd | ⟨-, hlt⟩
  · have hfloor : x.floor * (unit : Int) = x.scaled :=
      Int.ediv_mul_cancel (Int.natCast_dvd.2 (by rw [scaled_natAbs]; exact hdvd))
    have hmag : x.floor.natAbs * unit = x.mag := by rw [← scaled_natAbs, ← hfloor, Int.natAbs_mul, Int.natAbs_natCast]
    have hitof : (itof x.floor).mag = x.mag :=
      mag_ofRatio_eq _ _ _ one_pos x (isFinite_not_isNaN hx) (by rw [Nat.mul_one, hmag])
    exact ⟨(mag_lt_inf_iff _).2 (hitof ▸ (mag_lt_inf_iff x).1 hx), scaled_itof (hitof.trans hmag.symm)⟩
  · have hs := scaled_natAbs x
    have hlo := floor_mul_le x
    have hhi := lt_floor_add_one_mul x
    have hbound : ((2 : Nat) ^ (149 + 23) : Int) = 2 ^ 23 * unit := by decide +kernel
    have hbelow : x.floor < 2 ^ 23 := lt_of_mul_lt_mul_right (by omega : x.floor * (unit : Int) < 2 ^ 23 * unit) hpos.le
    have habove : -2 ^ 23 < x.floor + 1 :=
      lt_of_mul_lt_mul_right (by omega : -2 ^ 23 * (unit : Int) < (x.floor + 1) * unit) hpos.le
    have hle : x.floor.natAbs ≤ 2 ^ 24 := by omega
    exact ⟨itof_isFinite hle, scaled_itof_of_le hle⟩

/-! ### Order by sign and bits -/

theorem scaled_nonpos_of_sign {x : F} (h : x.sign = true) : x.scaled ≤ 0 := by rw [scaled_of_sign_true h]; omega

section
variable {x y : F} (hx : x.isNaN = false) (hy : y.isNaN = false)
include hx hy

/-- Magnitudes are ordered as bits 30:0. -/
theorem mag_le_iff : x.mag ≤ y.mag ↔ x.low31 ≤ y.low31 := by
  rw [mag_eq, mag_eq, magOfBits_le_iff ((isNaN_false_iff x).1 hx) ((isNaN_false_iff y).1 hy)]

variable (hxs : x.sign = false) (hys : y.sign = false)
include hxs hys

theorem scaled_le_iff : x.scaled ≤ y.scaled ↔ x.low31 ≤ y.low31 := by
  rw [scaled_nonneg_of_sign hxs, scaled_nonneg_of_sign hys, Nat.cast_le, mag_le_iff hx hy]

theorem scaled_lt_iff : x.scaled < y.scaled ↔ x.low31 < y.low31 := by
  rw [← not_le, ← not_le, scaled_le_iff hy hx hys hxs]

end

theorem scaled_zero : zero.scaled = 0 := by decide

end F

namespace Machine

open F

/-! ### `Frac` and `Wrap` -/

theorem frac_isPhase {x : F} (hx : x.isFinite = true) : IsPhase x.frac := by
  obtain ⟨hfin, hexact⟩ := itof_floor hx
  have hnan := sub_not_isNaN hx hfin
  have hlo : F.zero.scaled ≤ (x.sub (itof x.floor)).scaled :=
    le_sub_scaled hx hfin F.zero (by decide) (by rw [hexact, scaled_zero]; linarith [floor_mul_le x])
  rw [frac_eq]
  split_ifs with hone
  · exact ⟨by decide, by decide⟩
  · have hlt := (le_false_iff (x := F.one) (by decide) hnan).1 (by simpa using hone)
    exact ⟨le_iff.2 ⟨by decide, hnan, hlo⟩, lt_iff.2 ⟨hnan, by decide, hlt⟩⟩

/-- The greatest binary32 number below 2. -/
def belowTwo : F := ⟨0x3FFFFFFF#32⟩

/-- `belowTwo` less 1, which is a binary32 number too. -/
def belowTwoLessOne : F := ⟨0x3F7FFFFE#32⟩

theorem scaled_le_belowTwo {x : F} (h : x.lt F.two = true) : x.scaled ≤ belowTwo.scaled := by
  obtain ⟨hx, -, hlt⟩ := lt_iff.1 h
  cases hs : x.sign with
  | true => exact (scaled_nonpos_of_sign hs).trans (by decide +kernel)
  | false =>
    rw [scaled_lt_iff hx (by decide) hs (by decide)] at hlt
    rw [scaled_le_iff hx (by decide) hs (by decide)]
    exact Nat.le_of_lt_succ hlt

theorem wrap_isPhase {x : F} (h0 : F.zero.le x = true) (h2 : x.lt F.two = true) : IsPhase x.wrap := by
  obtain ⟨-, hnan, h0s⟩ := le_iff.1 h0
  have hx : x.isFinite = true :=
    isFinite_of_scaled (lo := F.zero) (hi := F.two) (by decide) (by decide) h0s (lt_iff.1 h2).2.2.le
  have h1 : F.one.isFinite = true := by decide
  rw [wrap_eq]
  split_ifs with hone
  · have hle : (x.sub F.one).scaled ≤ belowTwoLessOne.scaled := by
      refine sub_scaled_le hx h1 _ (by decide) ?_
      have hval : belowTwo.scaled - F.one.scaled = belowTwoLessOne.scaled := by decide +kernel
      have := scaled_le_belowTwo h2
      omega
    have hlo : F.zero.scaled ≤ (x.sub F.one).scaled := by
      refine le_sub_scaled hx h1 _ (by decide) ?_
      have := (le_iff.1 hone).2.2
      rw [scaled_zero]
      omega
    have hlt : belowTwoLessOne.scaled < F.one.scaled := by decide +kernel
    have hn := sub_not_isNaN hx h1
    exact ⟨le_iff.2 ⟨by decide, hn, hlo⟩, lt_iff.2 ⟨hn, by decide, by omega⟩⟩
  · exact ⟨h0, lt_iff.2 ⟨hnan, by decide, (le_false_iff (by decide) hnan).1 (by simpa using hone)⟩⟩

/-- Settles O55: the floor of a finite number is itself a number (`itof_floor`), so `Frac` rounds one exact difference. -/
theorem floorFracAndConversionsAreExact : Obligations.FloorFracAndConversionsAreExact :=
  ⟨fun x hx => ⟨floor_mul_le x, lt_floor_add_one_mul x, frac_eq x, frac_isPhase hx⟩,
    fun n hn => have hk : n.natAbs ≤ 2 ^ 24 := by rw [Int.abs_eq_natAbs] at hn; omega
      ⟨itof_isFinite hk, scaled_itof_of_le hk⟩, wrap_eq, fun _ => wrap_isPhase, lerp_eq⟩

end Machine
end Sys2Proof
end

section
/-! The machine's functions have the named properties of 00_scope.md R18, whatever the free values are: the number of each
result (Machine/Hardware.lean) is bounded and monotone, and results are ordered as their numbers. -/

namespace Sys2Proof

namespace F

theorem low31_of_sign_false {x : F} (h : x.sign = false) : x.low31 = x.bits.toNat := by
  have hlt : x.bits.toNat < 2 ^ 31 := by simpa [sign] using h
  exact Nat.mod_eq_of_lt hlt

theorem abs_of_sign_false {x : F} (h : x.sign = false) : x.abs = x :=
  ext_bits ((abs_toNat x).trans (low31_of_sign_false h))

theorem neg_neg_self (x : F) : x.neg.neg = x := by
  simp [neg]

theorem abs_neg_self (x : F) : x.neg.abs = x.abs :=
  ext_bits (by rw [abs_toNat, abs_toNat, low31_neg])

theorem le_self {x : F} (h : x.isNaN = false) : x.le x = true := le_iff.2 ⟨h, h, le_rfl⟩

theorem le_le_trans {x y z : F} (hxy : x.le y = true) (hyz : y.le z = true) : x.le z = true := by
  obtain ⟨hx, -, h1⟩ := le_iff.1 hxy
  obtain ⟨-, hz, h2⟩ := le_iff.1 hyz
  exact le_iff.2 ⟨hx, hz, h1.trans h2⟩

theorem low31_of_mag_zero {x : F} (h : x.mag = 0) : x.low31 = 0 :=
  Nat.le_zero.1 ((mag_le_iff (y := zero) (not_isNaN_of_mag_zero h) (by decide)).1 (by rw [h]; exact Nat.zero_le _))

/-- A positive number is at most a negative one only if both are zeros. -/
theorem mag_zero_of_scaled_le {x y : F} (hxs : x.sign = false) (hys : y.sign = true) (h : x.scaled ≤ y.scaled) :
    x.mag = 0 ∧ y.mag = 0 := by
  rw [scaled_nonneg_of_sign hxs, scaled_of_sign_true hys] at h
  omega

/-- Numbers of negative sign are ordered against their magnitudes. -/
theorem mag_le_of_scaled_le {x y : F} (hxs : x.sign = true) (hys : y.sign = true) (h : x.scaled ≤ y.scaled) :
    y.mag ≤ x.mag := by
  rw [scaled_of_sign_true hxs, scaled_of_sign_true hys] at h
  omega

/-- Nothing lies below the negative infinity. -/
theorem eq_inf_true_of_le {x : F} (h : x.le (inf true) = true) : x = inf true := by
  obtain ⟨hx, -, hle⟩ := le_iff.1 h
  cases hs : x.sign with
  | false =>
    have hmag := (mag_zero_of_scaled_le hs (inf_sign true) hle).2
    exact absurd hmag (inf_mag_ne_zero true)
  | true =>
    refine eq_of_sign_mag hx (inf_not_isNaN _) (hs.trans (inf_sign true).symm) ?_
    exact le_antisymm ((mag_le_inf hx).trans_eq (inf_mag true).symm) (mag_le_of_scaled_le hs (inf_sign true) hle)

end F

namespace Machine

open F

/-! ### Results by their number -/

section
variable (b : BitVec 32) {v : Nat} (hv : v ≤ infBits)
include hv

theorem ofResultKey_not_isNaN : (ofResultKey b v).isNaN = false := by
  unfold ofResultKey
  split_ifs with h
  · rw [h.2]; decide
  · exact build_not_isNaN _ _ hv

theorem ofResultKey_scaled : (ofResultKey b v).scaled = magOfBits v := by
  unfold ofResultKey
  split_ifs with h
  · rw [h.1, h.2]; decide
  · rw [scaled_nonneg_of_sign (sign_build _ _ hv), mag_build _ _ hv]

end

/-! ### The hyperbolic tangent -/

section
variable (raw : BitVec 32 → BitVec 32)

/-- The number of the hyperbolic tangent of a positive argument. -/
def tanhNumber (x : F) : Nat :=
  if tanhSat.le x then F.one.bits.toNat else bisect (tanhKey raw) 31 0 0 F.one.bits.toNat x.bits.toNat

theorem tanhNumber_le_one (x : F) : tanhNumber raw x ≤ F.one.bits.toNat := by
  unfold tanhNumber
  split_ifs
  · exact le_rfl
  · exact (bisect_mem _ _ _ _ _ _ (Nat.zero_le _)).2

theorem tanhNumber_le_infBits (x : F) : tanhNumber raw x ≤ infBits := (tanhNumber_le_one raw x).trans (by decide)

theorem tanhNumber_mono {x y : F} (hx : x.isNaN = false) (hy : y.isNaN = false) (hxs : x.sign = false)
    (hys : y.sign = false) (h : x.mag ≤ y.mag) : tanhNumber raw x ≤ tanhNumber raw y := by
  have hs : x.scaled ≤ y.scaled := by
    rw [scaled_nonneg_of_sign hxs, scaled_nonneg_of_sign hys]; exact_mod_cast h
  by_cases hsat : tanhSat.le y = true
  · rw [show tanhNumber raw y = F.one.bits.toNat from if_pos hsat]
    exact tanhNumber_le_one raw x
  · have hxsat : ¬ tanhSat.le x = true := fun hle => hsat (le_iff.2 ⟨by decide, hy, (le_iff.1 hle).2.2.trans hs⟩)
    have hbits : x.bits.toNat ≤ y.bits.toNat := by
      rw [← low31_of_sign_false hxs, ← low31_of_sign_false hys]
      exact (scaled_le_iff hx hy hxs hys).1 hs
    rw [tanhNumber, tanhNumber, if_neg hsat, if_neg hxsat]
    exact bisect_mono _ _ _ _ _ _ _ (Nat.zero_le _) hbits

theorem tanhPos_not_isNaN (x : F) : (tanhPos raw x).isNaN = false := by
  have hv := tanhNumber_le_infBits raw x
  unfold tanhPos tanhNumber at *
  split_ifs at *
  · decide
  · exact ofResultKey_not_isNaN _ hv

theorem tanhPos_scaled (x : F) : (tanhPos raw x).scaled = magOfBits (tanhNumber raw x) := by
  have hv := tanhNumber_le_infBits raw x
  unfold tanhPos tanhNumber at *
  split_ifs at *
  · decide +kernel
  · exact ofResultKey_scaled _ hv

/-! `conformTanh`, branch by branch. -/

theorem conformTanh_of_isNaN {x : F} (h : x.isNaN = true) : (conformTanh raw x).isNaN = true := by
  rw [conformTanh, if_pos h]; exact asNaN_isNaN _

theorem conformTanh_of_mag_zero {x : F} (h : x.mag = 0) : conformTanh raw x = x := by
  rw [conformTanh, not_isNaN_of_mag_zero h, if_pos h]; rfl

theorem conformTanh_of_pos {x : F} (hx : x.isNaN = false) (h : x.mag ≠ 0) (hs : x.sign = false) :
    conformTanh raw x = tanhPos raw x := by
  rw [conformTanh, hx, hs, if_neg h]; rfl

theorem conformTanh_of_neg {x : F} (hx : x.isNaN = false) (h : x.mag ≠ 0) (hs : x.sign = true) :
    conformTanh raw x = (tanhPos raw x.abs).neg := by
  rw [conformTanh, hx, hs, if_neg h]; rfl

/-- The magnitude of the hyperbolic tangent. -/
def tanhMag (x : F) : Nat := if x.mag = 0 then 0 else magOfBits (tanhNumber raw x.abs)

theorem tanhMag_le_one (x : F) : (tanhMag raw x : Int) ≤ F.one.scaled := by
  unfold tanhMag
  split_ifs
  · decide +kernel
  · have hle := (magOfBits_le_iff (tanhNumber_le_infBits raw x.abs) (by decide)).2 (tanhNumber_le_one raw x.abs)
    have hone : F.one.scaled = magOfBits F.one.bits.toNat := by decide +kernel
    rw [hone]
    exact_mod_cast hle

theorem tanhMag_mono {x y : F} (hx : x.isNaN = false) (hy : y.isNaN = false) (h : x.mag ≤ y.mag) :
    tanhMag raw x ≤ tanhMag raw y := by
  unfold tanhMag
  split_ifs with h0 h1
  · exact le_rfl
  · exact Nat.zero_le _
  · omega
  · rw [magOfBits_le_iff (tanhNumber_le_infBits raw _) (tanhNumber_le_infBits raw _)]
    exact tanhNumber_mono raw ((isNaN_abs x).trans hx) ((isNaN_abs y).trans hy) (sign_abs x) (sign_abs y)
      (by rwa [mag_abs, mag_abs])

/-- The hyperbolic tangent has the sign of its argument and the magnitude `tanhMag`. -/
theorem conformTanh_scaled {x : F} (hx : x.isNaN = false) :
    (conformTanh raw x).isNaN = false ∧
      (conformTanh raw x).scaled = if x.sign then -(tanhMag raw x : Int) else tanhMag raw x := by
  by_cases h : x.mag = 0
  · rw [conformTanh_of_mag_zero raw h, tanhMag, if_pos h, scaled_of_mag_zero h]
    exact ⟨hx, by simp⟩
  · rw [tanhMag, if_neg h]
    cases hs : x.sign with
    | false =>
      rw [conformTanh_of_pos raw hx h hs, abs_of_sign_false hs]
      exact ⟨tanhPos_not_isNaN raw x, tanhPos_scaled raw x⟩
    | true =>
      rw [conformTanh_of_neg raw hx h hs, isNaN_neg, scaled_neg, tanhPos_scaled]
      exact ⟨tanhPos_not_isNaN raw x.abs, rfl⟩

theorem conformTanh_isBipolar {x : F} (hx : x.isNaN = false) : IsBipolar (conformTanh raw x) := by
  obtain ⟨hn, hs⟩ := conformTanh_scaled raw hx
  have hle := tanhMag_le_one raw x
  have hminus : F.minusOne.scaled = -F.one.scaled := by decide +kernel
  refine within_iff.2 ⟨by decide, by decide, hn, ?_⟩
  rw [hs, hminus]
  split_ifs <;> omega

theorem conformTanh_neg {x : F} (hx : x.isNaN = false) : conformTanh raw x.neg = (conformTanh raw x).neg := by
  by_cases h : x.mag = 0
  · rw [conformTanh_of_mag_zero raw h, conformTanh_of_mag_zero raw (by rwa [mag_neg])]
  · have hn : x.neg.isNaN = false := by rwa [isNaN_neg]
    have hm : x.neg.mag ≠ 0 := by rwa [mag_neg]
    cases hs : x.sign with
    | false =>
      rw [conformTanh_of_pos raw hx h hs, conformTanh_of_neg raw hn hm (by rw [sign_neg, hs]; rfl), abs_neg_self,
        abs_of_sign_false hs]
    | true =>
      have hns : x.neg.sign = false := by rw [sign_neg, hs]; rfl
      rw [conformTanh_of_neg raw hx h hs, conformTanh_of_pos raw hn hm hns, neg_neg_self, ← abs_neg_self, abs_of_sign_false hns]

theorem conformTanh_mono {x y : F} (h : x.le y = true) : (conformTanh raw x).le (conformTanh raw y) = true := by
  obtain ⟨hx, hy, hle⟩ := le_iff.1 h
  obtain ⟨hxn, hxs⟩ := conformTanh_scaled raw hx
  obtain ⟨hyn, hys⟩ := conformTanh_scaled raw hy
  refine le_iff.2 ⟨hxn, hyn, ?_⟩
  rw [hxs, hys]
  cases hsx : x.sign <;> cases hsy : y.sign <;> simp only [Bool.false_eq_true, if_true, if_false]
  · rw [scaled_nonneg_of_sign hsx, scaled_nonneg_of_sign hsy] at hle
    exact_mod_cast tanhMag_mono raw hx hy (by omega)
  · obtain ⟨hx0, hy0⟩ := mag_zero_of_scaled_le hsx hsy hle
    rw [tanhMag, tanhMag, if_pos hx0, if_pos hy0]
    decide
  · omega
  · have := tanhMag_mono raw hy hx (mag_le_of_scaled_le hsx hsy hle)
    omega

theorem conformTanh_sat {x : F} (h : tanhSat.le x = true) : conformTanh raw x = F.one := by
  obtain ⟨-, hx, hle⟩ := le_iff.1 h
  have hpos : 0 < tanhSat.scaled := by decide +kernel
  have hs : x.sign = false := by
    by_contra hc
    have := scaled_nonpos_of_sign (Bool.eq_true_of_not_eq_false hc)
    omega
  have hm : x.mag ≠ 0 := fun h0 => by have := scaled_of_mag_zero h0; omega
  rw [conformTanh_of_pos raw hx hm hs, tanhPos, if_pos h]

theorem conformTanh_sat_neg {x : F} (h : x.le tanhSat.neg = true) : conformTanh raw x = F.minusOne := by
  obtain ⟨hx, -, hle⟩ := le_iff.1 h
  have hneg : tanhSat.le x.neg = true := by
    refine le_iff.2 ⟨by decide, by rwa [isNaN_neg], ?_⟩
    rw [scaled_neg] at hle ⊢
    omega
  rw [← neg_neg_self x, conformTanh_neg raw (by rwa [isNaN_neg]), conformTanh_sat raw hneg]
  decide

end

/-! ### The sine -/

theorem conformSin_of_mag_zero (raw : BitVec 32 → BitVec 32) {x : F} (h : x.mag = 0) : conformSin raw x = x := by
  have hfin : x.isFinite = true := (mag_lt_inf_iff x).2 (by rw [h]; positivity)
  simp [conformSin, hfin, h]

theorem conformSin_isBipolar (raw : BitVec 32 → BitVec 32) {x : F} (hx : x.isFinite = true) :
    IsBipolar (conformSin raw x) := by
  by_cases h : x.mag = 0
  · rw [conformSin_of_mag_zero raw h]
    refine within_iff.2 ⟨by decide, by decide, isFinite_not_isNaN hx, ?_⟩
    rw [scaled_of_mag_zero h]
    decide +kernel
  · rw [conformSin, hx, if_neg h]
    exact bounded_within _

/-! ### Two to the power: floor and ceiling of the argument -/

theorem unit_int_pos : (0 : Int) < (unit : Int) := by exact_mod_cast unit_pos

theorem ceil_le {x : F} {n : Int} (h : x.scaled ≤ n * (unit : Int)) : ceil x ≤ n := by
  have := (Int.le_ediv_iff_mul_le unit_int_pos).2 (show -n * (unit : Int) ≤ -x.scaled by linarith)
  unfold ceil
  omega

theorem le_ceil_mul (x : F) : x.scaled ≤ ceil x * (unit : Int) := by
  have := Int.ediv_mul_le (-x.scaled) unit_int_pos.ne'
  unfold ceil
  linarith

theorem floor_le_ceil (x : F) : x.floor ≤ ceil x :=
  le_of_mul_le_mul_right ((floor_mul_le x).trans (le_ceil_mul x)) unit_int_pos

theorem floor_mono {x y : F} (h : x.scaled ≤ y.scaled) : x.floor ≤ y.floor := Int.ediv_le_ediv unit_int_pos h

theorem ceil_mono {x y : F} (h : x.scaled ≤ y.scaled) : ceil x ≤ ceil y := ceil_le (h.trans (le_ceil_mul y))

/-- Bits 30:0 of 2 to the power of an integer. -/
def powNumber (n : Int) : Nat := (n + 127).toNat * 2 ^ 23

theorem powNumber_mono {m n : Int} (h : m ≤ n) : powNumber m ≤ powNumber n := Nat.mul_le_mul_right _ (by omega)

theorem pow2_toNat {n : Int} (h : n ≤ 127) : (pow2 n).bits.toNat = powNumber n := by
  have hlt : powNumber n < 2 ^ 31 := by unfold powNumber; omega
  exact (build_toNat false _ hlt).trans (Nat.zero_add _)

/-- The lower neighbouring power, by the floor kept in [-127, 127]. -/
theorem exp2Low_eq (x : F) : exp2Low x = powNumber (max (-127) (min 127 x.floor)) := by
  unfold exp2Low
  split_ifs with h1 h2
  · rw [max_eq_left (by omega)]; rfl
  · rw [pow2_toNat h2, min_eq_right h2, max_eq_right (by omega)]
  · rw [pow2_toNat le_rfl, min_eq_left (by omega)]; rfl

/-- The upper neighbouring power, by the ceiling kept in [-126, 128]; 2^128 has the bits of an infinity. -/
theorem exp2High_eq (x : F) : exp2High x = powNumber (max (-126) (min 128 (ceil x))) := by
  unfold exp2High
  split_ifs with h1 h2
  · rw [pow2_toNat (by decide), max_eq_left (by omega)]
  · rw [pow2_toNat h2, min_eq_right (by omega), max_eq_right (by omega)]
  · rw [min_eq_left (by omega)]; rfl

theorem exp2Low_le_exp2High (x : F) : exp2Low x ≤ exp2High x := by
  rw [exp2Low_eq, exp2High_eq]
  have := floor_le_ceil x
  exact powNumber_mono (by omega)

theorem exp2High_le {x : F} {n : Int} (hn : -126 ≤ n) (h : ceil x ≤ n) : exp2High x ≤ powNumber n := by
  rw [exp2High_eq]
  exact powNumber_mono (by omega)

theorem exp2High_le_infBits (x : F) : exp2High x ≤ infBits := by
  rw [exp2High_eq]
  calc powNumber (max (-126) (min 128 (ceil x))) ≤ powNumber 128 := powNumber_mono (by omega)
    _ = infBits := rfl

/-! ### Two to the power: the number of the result -/

theorem argKey_eq (x : F) : argKey x = if x.sign then 2 ^ 31 - x.low31 else 2 ^ 31 + x.low31 := by
  have hlt := x.bits_lt
  unfold argKey low31 sign
  split_ifs with h
  · have := of_decide_eq_true h; omega
  · have : ¬ 2 ^ 31 ≤ x.bits.toNat := by simpa using h
    omega

/-- The numbers of arguments are ordered as the arguments. -/
theorem argKey_mono {x y : F} (h : x.le y = true) : argKey x ≤ argKey y := by
  obtain ⟨hx, hy, hle⟩ := le_iff.1 h
  rw [argKey_eq, argKey_eq]
  cases hxs : x.sign <;> cases hys : y.sign <;> simp only [Bool.false_eq_true, if_true, if_false]
  · have := (scaled_le_iff hx hy hxs hys).1 hle
    omega
  · obtain ⟨hx0, hy0⟩ := mag_zero_of_scaled_le hxs hys hle
    rw [low31_of_mag_zero hx0, low31_of_mag_zero hy0]
    omega
  · omega
  · have := (mag_le_iff hy hx).1 (mag_le_of_scaled_le hxs hys hle)
    omega

section
variable (raw : BitVec 32 → BitVec 32)

/-- The number of 2 to the power of an argument. -/
def exp2Number (x : F) : Nat :=
  limit (exp2Low x) (exp2High x) (bisect (exp2Key raw) 32 0 0 infBits (argKey x))

theorem exp2Number_le (x : F) : exp2Number raw x ≤ exp2High x := limit_le _ (exp2Low_le_exp2High x)

theorem exp2Number_le_infBits (x : F) : exp2Number raw x ≤ infBits := (exp2Number_le raw x).trans (exp2High_le_infBits x)

theorem exp2Number_mono {x y : F} (h : x.le y = true) : exp2Number raw x ≤ exp2Number raw y := by
  obtain ⟨-, -, hs⟩ := le_iff.1 h
  have hfloor := floor_mono hs
  have hceil := ceil_mono hs
  refine limit_mono ?_ ?_ (bisect_mono _ _ _ _ _ _ _ (Nat.zero_le _) (argKey_mono h))
  · rw [exp2Low_eq, exp2Low_eq]; exact powNumber_mono (by omega)
  · rw [exp2High_eq, exp2High_eq]; exact powNumber_mono (by omega)

/-- Where the two neighbouring powers are one, the number is that power's. -/
theorem exp2Number_of_eq {x : F} (h : exp2Low x = exp2High x) : exp2Number raw x = exp2Low x :=
  le_antisymm ((exp2Number_le raw x).trans h.ge) (le_limit _ _ _)

theorem exp2Ordered_eq (x : F) :
    exp2Ordered raw x = if exp2Low x = exp2High x then build false (exp2Number raw x)
      else ofResultKey (raw x.bits) (exp2Number raw x) := by
  unfold exp2Ordered
  split_ifs with h
  · rw [exp2Number_of_eq raw h]
  · rfl

theorem exp2Ordered_not_isNaN (x : F) : (exp2Ordered raw x).isNaN = false := by
  have hv := exp2Number_le_infBits raw x
  rw [exp2Ordered_eq]
  split_ifs
  · exact build_not_isNaN _ _ hv
  · exact ofResultKey_not_isNaN _ hv

theorem exp2Ordered_scaled (x : F) : (exp2Ordered raw x).scaled = magOfBits (exp2Number raw x) := by
  have hv := exp2Number_le_infBits raw x
  rw [exp2Ordered_eq]
  split_ifs
  · rw [scaled_nonneg_of_sign (sign_build _ _ hv), mag_build _ _ hv]
  · exact ofResultKey_scaled _ hv

theorem exp2Ordered_mono {x y : F} (h : x.le y = true) : (exp2Ordered raw x).le (exp2Ordered raw y) = true := by
  refine le_iff.2 ⟨exp2Ordered_not_isNaN raw x, exp2Ordered_not_isNaN raw y, ?_⟩
  rw [exp2Ordered_scaled, exp2Ordered_scaled, Nat.cast_le,
    magOfBits_le_iff (exp2Number_le_infBits raw x) (exp2Number_le_infBits raw y)]
  exact exp2Number_mono raw h

/-! `conformExp2`, branch by branch. -/

/-- The least finite number. -/
def leastFinite : F := ⟨0xFF7FFFFF#32⟩

theorem conformExp2_of_ne {x : F} (hx : x.isNaN = false) (h : x ≠ inf true) : conformExp2 raw x = exp2Ordered raw x := by
  rw [conformExp2, hx, if_neg h]; rfl

theorem conformExp2_of_isFinite {x : F} (hx : x.isFinite = true) : conformExp2 raw x = exp2Ordered raw x :=
  conformExp2_of_ne raw (isFinite_not_isNaN hx) (by rintro rfl; exact absurd hx (by decide))

theorem conformExp2_minusInf_le : (conformExp2 raw (inf true)).le (exp2Ordered raw leastFinite) = true := by
  rw [conformExp2, inf_not_isNaN, if_pos rfl]
  show (if (F.mk _).le (exp2Ordered raw leastFinite) = true then _ else exp2Ordered raw leastFinite).le _ = true
  split_ifs with h
  · exact h
  · exact le_self (exp2Ordered_not_isNaN raw _)

theorem conformExp2_itof {n : Int} (hlo : -126 ≤ n) (hhi : n ≤ 127) :
    conformExp2 raw (itof n) = build false (powNumber n) := by
  have hk : n.natAbs ≤ 2 ^ 24 := by omega
  have hs := scaled_itof_of_le hk
  have hfloor : (itof n).floor = n := by
    unfold floor; rw [hs]; exact Int.mul_ediv_cancel _ unit_int_pos.ne'
  have hceil : ceil (itof n) = n :=
    le_antisymm (ceil_le hs.le) (hfloor.symm.le.trans (floor_le_ceil _))
  have hlow : exp2Low (itof n) = powNumber n := by rw [exp2Low_eq, hfloor]; congr 1; omega
  have hhigh : exp2High (itof n) = powNumber n := by rw [exp2High_eq, hceil]; congr 1; omega
  rw [conformExp2_of_isFinite raw (itof_isFinite hk), exp2Ordered, if_pos (hlow.trans hhigh.symm), hlow]

theorem conformExp2_nonneg {x : F} (hx : x.isFinite = true) : F.zero.le (conformExp2 raw x) = true := by
  rw [conformExp2_of_isFinite raw hx]
  refine le_iff.2 ⟨by decide, exp2Ordered_not_isNaN raw x, ?_⟩
  rw [exp2Ordered_scaled, scaled_zero]
  exact Int.natCast_nonneg _

theorem conformExp2_isFinite {x : F} (hx : x.isFinite = true) (h : x.le ⟨0x42FE0000#32⟩ = true) :
    (conformExp2 raw x).isFinite = true := by
  have h127 : (F.mk 0x42FE0000#32).scaled = 127 * (unit : Int) := by decide +kernel
  have hceil : ceil x ≤ 127 := ceil_le (h127 ▸ (le_iff.1 h).2.2)
  have hlt : exp2Number raw x < infBits :=
    ((exp2Number_le raw x).trans (exp2High_le (by decide) hceil)).trans_lt (by decide)
  rw [conformExp2_of_isFinite raw hx, mag_lt_inf_iff, ← magOfBits_infBits, ← scaled_natAbs, exp2Ordered_scaled,
    Int.natAbs_natCast, magOfBits_lt_iff hlt.le le_rfl]
  exact hlt

theorem leastFinite_le {y : F} (hy : y.isNaN = false) (h : y ≠ inf true) : leastFinite.le y = true := by
  refine le_iff.2 ⟨by decide, hy, ?_⟩
  have hneg : leastFinite.sign = true := by decide
  cases hs : y.sign with
  | false =>
    have := scaled_nonneg_of_sign hs
    exact (scaled_nonpos_of_sign hneg).trans (by omega)
  | true =>
    have hne : y.low31 ≠ infBits := fun heq => h (by rw [← build_sign_low31 y, hs, heq]; rfl)
    have hlow : y.low31 ≤ leastFinite.low31 := Nat.le_of_lt_succ (lt_of_le_of_ne ((isNaN_false_iff y).1 hy) hne)
    have hmag := (mag_le_iff hy (by decide)).2 hlow
    rw [scaled_of_sign_true hneg, scaled_of_sign_true hs]
    omega

theorem conformExp2_mono {x y : F} (h : x.le y = true) : (conformExp2 raw x).le (conformExp2 raw y) = true := by
  obtain ⟨hx, hy, -⟩ := le_iff.1 h
  by_cases hyinf : y = inf true
  · have hxinf := eq_inf_true_of_le (hyinf ▸ h)
    rw [hxinf, hyinf]
    exact le_self (le_iff.1 (conformExp2_minusInf_le raw)).1
  rw [conformExp2_of_ne raw hy hyinf]
  by_cases hxinf : x = inf true
  · rw [hxinf]
    exact le_le_trans (conformExp2_minusInf_le raw) (exp2Ordered_mono raw (leastFinite_le hy hyinf))
  · rw [conformExp2_of_ne raw hx hxinf]
    exact exp2Ordered_mono raw h

end

/-- Settles O52: each function of R18 is read off a bounded, monotone number of its result. -/
theorem machineFunctionsHaveTheNamedProperties : Obligations.MachineFunctionsHaveTheNamedProperties :=
  ⟨fun _ => conformTanh_isBipolar _, fun _ => conformTanh_of_mag_zero _, fun _ => conformTanh_neg _,
    fun _ _ => conformTanh_mono _, fun _ => ⟨conformTanh_sat _, conformTanh_sat_neg _⟩, fun _ => conformTanh_of_isNaN _,
    fun _ => conformSin_isBipolar _, fun _ => conformSin_of_mag_zero _, fun _ => conformExp2_itof _,
    fun _ hx => ⟨conformExp2_nonneg _ hx, conformExp2_isFinite _ hx⟩, fun _ _ => conformExp2_mono _,
    fun _ _ _ => bounded_within _, fun _ => bounded_within _⟩

end Machine
end Sys2Proof
end

section
/-! Interval arithmetic on binary32: bounds on the operands of an operation of 00_scope.md R13 are bounds on its result. -/

namespace Sys2Proof

namespace F

section
variable {x x₁ x₂ y y₁ y₂ m : Int} (hx : x₁ ≤ x ∧ x ≤ x₂) (hy : y₁ ≤ y ∧ y ≤ y₂)
include hx hy

/-- A product of two bounded factors is not below all four products of their bounds. -/
theorem le_mul_of_corners (h : m ≤ x₁ * y₁ ∧ m ≤ x₁ * y₂ ∧ m ≤ x₂ * y₁ ∧ m ≤ x₂ * y₂) : m ≤ x * y := by
  obtain ⟨h11, h12, h21, h22⟩ := h
  have edge₁ : m ≤ x₁ * y := by
    rcases le_total 0 x₁ with h | h
    · exact h11.trans (mul_le_mul_of_nonneg_left hy.1 h)
    · exact h12.trans (mul_le_mul_of_nonpos_left hy.2 h)
  have edge₂ : m ≤ x₂ * y := by
    rcases le_total 0 x₂ with h | h
    · exact h21.trans (mul_le_mul_of_nonneg_left hy.1 h)
    · exact h22.trans (mul_le_mul_of_nonpos_left hy.2 h)
  rcases le_total 0 y with h | h
  · exact edge₁.trans (mul_le_mul_of_nonneg_right hx.1 h)
  · exact edge₂.trans (mul_le_mul_of_nonpos_right hx.2 h)

theorem mul_le_of_corners (h : x₁ * y₁ ≤ m ∧ x₁ * y₂ ≤ m ∧ x₂ * y₁ ≤ m ∧ x₂ * y₂ ≤ m) : x * y ≤ m := by
  have hneg : -x₂ ≤ -x ∧ -x ≤ -x₁ := ⟨neg_le_neg hx.2, neg_le_neg hx.1⟩
  have := le_mul_of_corners hneg hy (m := -m) (by simp only [neg_mul]; omega)
  rw [neg_mul] at this
  omega

end

end F

namespace Machine

open F

theorem inRange_iff {lo hi x : F} : InRange lo hi x ↔
    lo.isNaN = false ∧ hi.isNaN = false ∧ x.isNaN = false ∧ lo.scaled ≤ x.scaled ∧ x.scaled ≤ hi.scaled := within_iff

theorem InRange.isNaN {lo hi x : F} (h : InRange lo hi x) : x.isNaN = false := (inRange_iff.1 h).2.2.1

theorem InRange.scaled {lo hi x : F} (h : InRange lo hi x) : lo.scaled ≤ x.scaled ∧ x.scaled ≤ hi.scaled :=
  (inRange_iff.1 h).2.2.2

theorem inRange_self {x : F} (h : x.isNaN = false) : InRange x x x := inRange_iff.2 ⟨h, h, h, le_rfl, le_rfl⟩

/-- Both bounds are finite, so that everything between them is. -/
abbrev FiniteBounds (lo hi : F) : Prop := lo.isFinite = true ∧ hi.isFinite = true

theorem InRange.isFinite {lo hi x : F} (h : InRange lo hi x) (hb : FiniteBounds lo hi) : x.isFinite = true :=
  isFinite_of_within hb.1 hb.2 h

section
variable {a₁ a₂ b₁ b₂ a b : F} (ha : InRange a₁ a₂ a) (hb : InRange b₁ b₂ b)
  (hfa : FiniteBounds a₁ a₂) (hfb : FiniteBounds b₁ b₂) {lo hi : F} (hf : FiniteBounds lo hi)
include ha hb hfa hfb hf

theorem add_inRange (h : lo.scaled ≤ a₁.scaled + b₁.scaled ∧ a₂.scaled + b₂.scaled ≤ hi.scaled) :
    InRange lo hi (a.add b) := by
  obtain ⟨fa, fb⟩ := And.intro (ha.isFinite hfa) (hb.isFinite hfb)
  obtain ⟨hlo, hhi⟩ := And.intro (isFinite_not_isNaN hf.1) (isFinite_not_isNaN hf.2)
  obtain ⟨⟨a1, a2⟩, b1, b2⟩ := And.intro ha.scaled hb.scaled
  exact inRange_iff.2 ⟨hlo, hhi, add_not_isNaN fa fb, le_add_scaled fa fb _ hlo (by omega),
    add_scaled_le fa fb _ hhi (by omega)⟩

theorem sub_inRange (h : lo.scaled ≤ a₁.scaled - b₂.scaled ∧ a₂.scaled - b₁.scaled ≤ hi.scaled) :
    InRange lo hi (a.sub b) := by
  obtain ⟨fa, fb⟩ := And.intro (ha.isFinite hfa) (hb.isFinite hfb)
  obtain ⟨hlo, hhi⟩ := And.intro (isFinite_not_isNaN hf.1) (isFinite_not_isNaN hf.2)
  obtain ⟨⟨a1, a2⟩, b1, b2⟩ := And.intro ha.scaled hb.scaled
  exact inRange_iff.2 ⟨hlo, hhi, sub_not_isNaN fa fb, le_sub_scaled fa fb _ hlo (by omega),
    sub_scaled_le fa fb _ hhi (by omega)⟩

/-- A product lies in `[lo, hi]` when the exact products of the operands' bounds do. -/
theorem mul_inRange
    (hl : ∀ p ∈ [a₁.scaled * b₁.scaled, a₁.scaled * b₂.scaled, a₂.scaled * b₁.scaled, a₂.scaled * b₂.scaled],
      lo.scaled * unit ≤ p ∧ p ≤ hi.scaled * unit) :
    InRange lo hi (a.mul b) := by
  obtain ⟨fa, fb⟩ := And.intro (ha.isFinite hfa) (hb.isFinite hfb)
  obtain ⟨hlo, hhi⟩ := And.intro (isFinite_not_isNaN hf.1) (isFinite_not_isNaN hf.2)
  simp only [List.forall_mem_cons] at hl
  obtain ⟨h11, h12, h21, h22, -⟩ := hl
  exact inRange_iff.2 ⟨hlo, hhi, mul_not_isNaN fa fb,
    le_mul_scaled fa fb _ hlo (le_mul_of_corners ha.scaled hb.scaled ⟨h11.1, h12.1, h21.1, h22.1⟩),
    mul_scaled_le fa fb _ hhi (mul_le_of_corners ha.scaled hb.scaled ⟨h11.2, h12.2, h21.2, h22.2⟩)⟩

/-- A quotient by a positive number lies in `[lo, hi]` when the exact quotients of the bounds do, which the hypothesis says
without dividing. -/
theorem div_inRange (hpos : 0 < b₁.scaled)
    (hl : ∀ q ∈ [b₁.scaled, b₂.scaled], lo.scaled * q ≤ a₁.scaled * unit ∧ a₂.scaled * unit ≤ hi.scaled * q) :
    InRange lo hi (a.div b) := by
  obtain ⟨fa, fb⟩ := And.intro (ha.isFinite hfa) (hb.isFinite hfb)
  obtain ⟨hlo, hhi⟩ := And.intro (isFinite_not_isNaN hf.1) (isFinite_not_isNaN hf.2)
  simp only [List.forall_mem_cons] at hl
  obtain ⟨h1, h2, -⟩ := hl
  have hb0 : 0 < b.scaled := hpos.trans_le hb.scaled.1
  have hu : (0 : Int) ≤ unit := Int.natCast_nonneg _
  refine inRange_iff.2 ⟨hlo, hhi, div_not_isNaN fa fb hb0, le_div_scaled fa fb hb0 _ hlo ?_, div_scaled_le fa fb hb0 _ hhi ?_⟩
  · exact (mul_le_of_corners ⟨le_rfl, le_rfl⟩ hb.scaled ⟨h1.1, h2.1, h1.1, h2.1⟩).trans
      (mul_le_mul_of_nonneg_right ha.scaled.1 hu)
  · exact (mul_le_mul_of_nonneg_right ha.scaled.2 hu).trans
      (le_mul_of_corners ⟨le_rfl, le_rfl⟩ hb.scaled ⟨h1.2, h2.2, h1.2, h2.2⟩)

end

theorem clamp_inRange {x lo hi : F} (hx : x.isNaN = false) (h : lo.le hi = true) : InRange lo hi (x.clamp lo hi) :=
  clamp_within hx h

end Machine
end Sys2Proof
end

section
/-! Phases, modulation and note values (10_state.md R38 to R43, R51): what one sample leaves in [0, 1), [-1, 1] or [0, 1], and
the velocity and base frequency of a note. -/

namespace Sys2Proof

namespace F

/-- One step down in the exponent field halves the magnitude. -/
theorem magOfBits_halve {m : Nat} (h : 2 ^ 24 ≤ m) : magOfBits (m - 2 ^ 23) * 2 = magOfBits m := by
  have hdiv : (m - 2 ^ 23) / 2 ^ 23 + 1 = m / 2 ^ 23 := by omega
  have hmod : (m - 2 ^ 23) % 2 ^ 23 = m % 2 ^ 23 := by omega
  obtain ⟨e, he⟩ : ∃ e, m / 2 ^ 23 = e + 2 := ⟨m / 2 ^ 23 - 2, by omega⟩
  unfold magOfBits
  rw [hmod, show (m - 2 ^ 23) / 2 ^ 23 = e + 1 by omega, he, if_neg (by omega), if_neg (by omega), mul_assoc,
    Nat.add_sub_cancel, show e + 2 - 1 = e + 1 by omega, ← pow_succ]

theorem sign_of_scaled_pos {x : F} (h : 0 < x.scaled) : x.sign = false := by
  cases hs : x.sign with
  | false => rfl
  | true => exact absurd (scaled_nonpos_of_sign hs) (by omega)

/-- The half of a positive number with an exponent field of at least 2 is not rounded up. -/
theorem mul_half_scaled_le {x : F} (hx : x.isFinite = true) (hpos : 0 < x.scaled) (h : 2 ^ 24 ≤ x.low31) :
    (x.mul half).scaled * 2 ≤ x.scaled := by
  have hinf := (isFinite_iff x).1 hx
  have hle : x.low31 - 2 ^ 23 ≤ infBits := by omega
  have hy : (build false (x.low31 - 2 ^ 23)).scaled * 2 = x.scaled := by
    rw [scaled_nonneg_of_sign (sign_build _ _ hle), mag_build _ _ hle, scaled_nonneg_of_sign (sign_of_scaled_pos hpos), mag_eq]
    exact_mod_cast magOfBits_halve h
  have hhalf : half.scaled * 2 = unit := by decide +kernel
  rw [← hy]
  refine mul_le_mul_of_nonneg_right (mul_scaled_le hx (by decide) _ (build_not_isNaN _ _ hle) (le_of_eq ?_)) (by decide)
  rw [← hy, ← hhalf]
  ring

end F

namespace Machine

open F

/-! ### Phases (R157, R180, R234) -/

theorem IsPhase.inUnit {p : F} (h : IsPhase p) : InUnit p := by
  obtain ⟨h0, h1⟩ := h
  obtain ⟨-, hn, h0⟩ := le_iff.1 h0
  exact inRange_iff.2 ⟨by decide, by decide, hn, h0, (lt_iff.1 h1).2.2.le⟩

theorem isPhase_zero : IsPhase F.zero := ⟨by decide, by decide⟩

/-- A phase advanced by at most half a turn is a phase (R157). -/
theorem advance_isPhase {p dt : F} (hp : IsPhase p) (hdt : InRange F.zero F.half dt) : IsPhase (advance binary32 p dt) := by
  have hsum : InRange F.zero ⟨0x3FC00000#32⟩ (p.add dt) :=
    add_inRange hp.inUnit hdt (by decide) (by decide) (by decide) (by decide +kernel)
  obtain ⟨h0, h2⟩ := hsum.scaled
  have hlt : (F.mk 0x3FC00000#32).scaled < F.two.scaled := by decide +kernel
  exact wrap_isPhase (le_iff.2 ⟨by decide, hsum.isNaN, h0⟩) (lt_iff.2 ⟨hsum.isNaN, by decide, h2.trans_lt hlt⟩)

/-- The frequency clamp keeps an increment at half a turn (R142, R174). -/
theorem clampFreq_div_inRange {fs f : F} (hfs : InRange hw.fsMin hw.fsMax fs) (hf : f.isNaN = false) :
    InRange F.zero F.half ((clampFreq binary32 fs f).div fs) := by
  have hfin := hfs.isFinite (by decide)
  have hmin : 0 < hw.fsMin.scaled := by decide +kernel
  have hpos : 0 < fs.scaled := hmin.trans_le hfs.scaled.1
  have hexp : 2 ^ 24 ≤ fs.low31 :=
    le_trans (by decide) ((scaled_le_iff (by decide) hfs.isNaN (by decide) (sign_of_scaled_pos hpos)).1 hfs.scaled.1)
  have htop : InRange F.zero hw.fsMax (fs.mul F.half) :=
    mul_inRange hfs (inRange_self (by decide)) (by decide) (by decide) (by decide) (by decide +kernel)
  have hfreq : InRange F.zero (fs.mul F.half) (clampFreq binary32 fs f) :=
    clamp_inRange hf (le_iff.2 ⟨by decide, htop.isNaN, htop.scaled.1⟩)
  have hfreqFin := hfreq.isFinite ⟨by decide, htop.isFinite (by decide)⟩
  have hhalf : F.half.scaled * 2 = unit := by decide +kernel
  have hbound := hfreq.scaled.2
  have hround := mul_half_scaled_le hfin hpos hexp
  refine inRange_iff.2 ⟨by decide, by decide, div_not_isNaN hfreqFin hfin hpos,
    le_div_scaled hfreqFin hfin hpos _ (by decide) ?_, div_scaled_le hfreqFin hfin hpos _ (by decide) ?_⟩
  · rw [scaled_zero, zero_mul]
    exact mul_nonneg (by simpa only [scaled_zero] using hfreq.scaled.1) (Int.natCast_nonneg _)
  · rw [← hhalf, mul_comm F.half.scaled fs.scaled, mul_comm F.half.scaled, ← mul_assoc]
    exact mul_le_mul_of_nonneg_right (by omega) (by decide +kernel)

/-- An LFO advances by less than half a turn (R234). -/
theorem lfoRate_div_inRange {fs r : F} (hfs : InRange hw.fsMin hw.fsMax fs) (hr : InRange Config.lfoMin Config.lfoMax r) :
    InRange F.zero F.half (r.div fs) :=
  div_inRange hr hfs (by decide) (by decide) (by decide) (by decide +kernel) (by decide +kernel)

/-! ### The LFO's shapes (R235) and the pitch multiplier (R252) -/

section
variable {c : Config} (hnum : c.num = binary32) {p : F} (hp : IsPhase p)
include hnum hp

theorem sine_isBipolar (hsin : SinBound c) : IsBipolar (sine c p) := by
  have harg : InRange F.zero F.seven (Config.twoPi.mul p) :=
    mul_inRange (inRange_self (by decide)) hp.inUnit (by decide) (by decide) (by decide)
      (by decide +kernel)
  unfold sine
  rw [hnum]
  exact hsin _ (harg.isFinite (by decide))

theorem ramp_isBipolar : IsBipolar (ramp c.num p) := by
  have hdouble : InRange F.zero F.two (F.two.mul p) :=
    mul_inRange (inRange_self (by decide)) hp.inUnit (by decide) (by decide) (by decide) (by decide +kernel)
  rw [hnum]
  exact sub_inRange hdouble (inRange_self (by decide)) (by decide) (by decide) (by decide) (by decide +kernel)

omit hp in
theorem pulseLevel_isBipolar (p w : F) : IsBipolar (pulseLevel c.num p w) := by
  rw [hnum]
  unfold pulseLevel
  split
  · exact (inRange_iff.2 (by decide +kernel) : IsBipolar F.one)
  · exact (inRange_iff.2 (by decide +kernel) : IsBipolar F.minusOne)

theorem triangle_isBipolar : IsBipolar (triangle c.num p) := by
  have hoff : InRange F.half.neg F.half (p.sub F.half) :=
    sub_inRange hp.inUnit (inRange_self (by decide)) (by decide) (by decide) (by decide) (by decide +kernel)
  have habs : InRange F.zero F.half (p.sub F.half).abs := by
    have hs := hoff.scaled
    have hm := scaled_natAbs (p.sub F.half)
    rw [scaled_neg] at hs
    exact inRange_iff.2 ⟨by decide, by decide, (isNaN_abs _).trans hoff.isNaN, by rw [scaled_abs, scaled_zero]; omega,
      by rw [scaled_abs]; omega⟩
  have hquad : InRange F.zero F.two (F.four.mul (p.sub F.half).abs) :=
    mul_inRange (inRange_self (by decide)) habs (by decide) (by decide) (by decide) (by decide +kernel)
  rw [hnum]
  exact sub_inRange hquad (inRange_self (by decide)) (by decide) (by decide) (by decide) (by decide +kernel)

theorem naiveShape_isBipolar (hsin : SinBound c) (hdraw : DrawBounded c) (n : Nat) (k : WaveformKind) :
    IsBipolar (naiveShape c n k p) := by
  cases k with
  | sine => exact sine_isBipolar hnum hp hsin
  | triangle => exact triangle_isBipolar hnum hp
  | sawtooth => exact ramp_isBipolar hnum hp
  | square => exact pulseLevel_isBipolar hnum p _
  | pulse25 => exact pulseLevel_isBipolar hnum p _
  | pwm => exact pulseLevel_isBipolar hnum p _
  | superSaw => exact ramp_isBipolar hnum hp
  | noise => exact hdraw n

end

/-- An LFO value in [-1, 1] moves the pitch by at most a tenth (R252). -/
theorem pitchMod_inRange {v : Voice} {l : F} (hl : IsBipolar l) (hv : InUnit v.lfoToPitch) :
    InRange ⟨0x3F666666#32⟩ ⟨0x3F8CCCCD#32⟩ (pitchMod binary32 v l) := by
  have hrouted : IsBipolar (l.mul v.lfoToPitch) :=
    mul_inRange hl hv (by decide) (by decide) (by decide) (by decide +kernel)
  have hdepth : InRange Config.pitchDepth.neg Config.pitchDepth ((l.mul v.lfoToPitch).mul Config.pitchDepth) :=
    mul_inRange hrouted (inRange_self (by decide)) (by decide) (by decide) (by decide)
      (by decide +kernel)
  exact add_inRange (inRange_self (by decide)) hdepth (by decide) (by decide) (by decide) (by decide +kernel)

/-! ### Envelopes (R211, R214 to R219) -/

/-- A cached rate as an envelope needs it: a finite number, not negative. -/
def IsRate (r : F) : Prop := r.isFinite = true ∧ F.zero.le r = true

theorem InRange.isRate {hi r : F} (h : InRange F.zero hi r) (hhi : hi.isFinite = true) : IsRate r :=
  ⟨h.isFinite ⟨by decide, hhi⟩, le_iff.2 ⟨by decide, h.isNaN, h.scaled.1⟩⟩

theorem IsRate.scaled_nonneg {r : F} (h : IsRate r) : 0 ≤ r.scaled := by simpa only [scaled_zero] using (le_iff.1 h.2).2.2

/-- The rates of the registers' domains (R211). The time in seconds lies in [2^-14, 16], its samples in [1/4, 2^22]. -/
theorem envRate_isRate {ms fs : F} (hms : InRange hw.tMin hw.tMax ms) (hfs : InRange hw.fsMin hw.fsMax fs) :
    IsRate (envRate binary32 ms fs) := by
  have hsec : InRange ⟨0x38800000#32⟩ ⟨0x41800000#32⟩ (ms.mul F.milli) :=
    mul_inRange hms (inRange_self (by decide)) (by decide) (by decide) (by decide) (by decide +kernel)
  have hsamples : InRange F.quarter ⟨0x4A800000#32⟩ ((ms.mul F.milli).mul fs) :=
    mul_inRange hsec hfs (by decide) (by decide) (by decide) (by decide +kernel)
  have hrate : InRange F.zero F.four (F.one.div ((ms.mul F.milli).mul fs)) :=
    div_inRange (inRange_self (by decide)) hsamples (by decide) (by decide) (by decide) (by decide +kernel)
      (by decide +kernel)
  exact hrate.isRate (by decide)

theorem InUnit.isFinite {x : F} (h : InUnit x) : x.isFinite = true := InRange.isFinite h (by decide)

theorem InUnit.scaled {x : F} (h : InUnit x) : 0 ≤ x.scaled ∧ x.scaled ≤ F.one.scaled := by
  simpa only [scaled_zero] using InRange.scaled h

theorem inUnit_of_scaled {x : F} (hx : x.isNaN = false) (h0 : 0 ≤ x.scaled) (h1 : x.scaled ≤ F.one.scaled) : InUnit x :=
  inRange_iff.2 ⟨by decide, by decide, hx, by rwa [scaled_zero], h1⟩

theorem inUnit_zero : InUnit F.zero := inUnit_of_scaled (by decide) (by decide) (by decide +kernel)

theorem inUnit_one : InUnit F.one := inUnit_of_scaled (by decide) (by decide +kernel) le_rfl

/-- A step down does not go up. -/
theorem IsRate.sub_scaled_le {x d : F} (hd : IsRate d) (hx : x.isFinite = true) : (x.sub d).scaled ≤ x.scaled :=
  F.sub_scaled_le hx hd.1 x (isFinite_not_isNaN hx) (by linarith [hd.scaled_nonneg])

/-- A fraction of a rate is a rate. -/
theorem IsRate.mul_inUnit {r x : F} (hr : IsRate r) (hx : InUnit x) : IsRate (r.mul x) := by
  have hr0 := hr.scaled_nonneg
  have hlo : F.zero.scaled ≤ (r.mul x).scaled :=
    le_mul_scaled hr.1 hx.isFinite _ (by decide) (by rw [scaled_zero, zero_mul]; exact mul_nonneg hr0 hx.scaled.1)
  have hhi : (r.mul x).scaled ≤ r.scaled := by
    refine mul_scaled_le hr.1 hx.isFinite r (isFinite_not_isNaN hr.1) (mul_le_mul_of_nonneg_left ?_ hr0)
    exact hx.scaled.2.trans (by decide +kernel)
  exact ⟨isFinite_of_scaled (lo := F.zero) (by decide) hr.1 hlo hhi,
    le_iff.2 ⟨by decide, mul_not_isNaN hr.1 hx.isFinite, hlo⟩⟩

section
variable {e : Env} (hlevel : InUnit e.level)
include hlevel

theorem envAttack_level_inUnit (hr : IsRate e.aRate) : InUnit (envAttack binary32 e).level := by
  have hnan := add_not_isNaN hlevel.isFinite hr.1
  have hlo : F.zero.scaled ≤ (e.level.add e.aRate).scaled :=
    le_add_scaled hlevel.isFinite hr.1 _ (by decide) (by rw [scaled_zero]; linarith [hlevel.scaled.1, hr.scaled_nonneg])
  show InUnit (if F.one.le (e.level.add e.aRate) then _ else _ : Env).level
  split_ifs with hone
  · exact inUnit_one
  · have hlt := (le_false_iff (x := F.one) (by decide) hnan).1 (by simpa using hone)
    exact inUnit_of_scaled hnan hlo hlt.le

theorem envDecay_level_inUnit (hs : InUnit e.sustain) (hr : IsRate e.dRate) : InUnit (envDecay binary32 e).level := by
  have hnan := sub_not_isNaN hlevel.isFinite hr.1
  have hhi := (hr.sub_scaled_le hlevel.isFinite).trans hlevel.scaled.2
  show InUnit (if (e.level.sub e.dRate).le e.sustain then _ else _ : Env).level
  split_ifs with hle
  · exact hs
  · have hlt := (le_false_iff hnan (isFinite_not_isNaN hs.isFinite)).1 (by simpa using hle)
    exact inUnit_of_scaled hnan (hs.scaled.1.trans hlt.le) hhi

theorem envRelease_sound (hs : InUnit e.relStart) (hr : IsRate e.rRate) (hstage : e.stage ≠ .idle) :
    EnvSound (envRelease binary32 e) := by
  have hstep := hr.mul_inUnit hs
  have hnan := sub_not_isNaN hlevel.isFinite hstep.1
  have hhi := (hstep.sub_scaled_le hlevel.isFinite).trans hlevel.scaled.2
  show EnvSound (if (e.level.sub (e.rRate.mul e.relStart)).le F.zero then _ else _)
  split_ifs with hle
  · exact ⟨inUnit_zero, hs, fun _ => rfl⟩
  · have hlt := (le_false_iff (y := F.zero) hnan (by decide)).1 (by simpa using hle)
    rw [scaled_zero] at hlt
    exact ⟨inUnit_of_scaled hnan hlt.le hhi, hs, fun h => absurd h hstage⟩

end

theorem envAttack_stage {e : Env} (h : e.stage = .attack) : (envAttack binary32 e).stage ≠ .idle := by
  unfold envAttack
  dsimp only
  split <;> simp [h]

theorem envDecay_stage {e : Env} (h : e.stage = .decay) : (envDecay binary32 e).stage ≠ .idle := by
  unfold envDecay
  dsimp only
  split <;> simp [h]

/-- One sample keeps the level and the snapshot in [0, 1], and Idle at level 0 (R222). -/
theorem envNext_sound {e : Env} (he : EnvSound e) (hs : InUnit e.sustain) (ha : IsRate e.aRate) (hd : IsRate e.dRate)
    (hr : IsRate e.rRate) : EnvSound (envNext binary32 e) := by
  obtain ⟨hlevel, hrel, hidle⟩ := he
  have hrel' : InUnit (envNext binary32 e).relStart := by rwa [envNext_relStart]
  cases hstage : e.stage with
  | idle =>
    have heq : envNext binary32 e = e := by simp only [envNext, hstage]
    rw [heq]
    exact ⟨hlevel, hrel, hidle⟩
  | attack =>
    have heq : envNext binary32 e = envAttack binary32 e := by simp only [envNext, hstage]
    rw [heq] at hrel' ⊢
    exact ⟨envAttack_level_inUnit hlevel ha, hrel', fun h => absurd h (envAttack_stage hstage)⟩
  | decay =>
    have heq : envNext binary32 e = envDecay binary32 e := by simp only [envNext, hstage]
    rw [heq] at hrel' ⊢
    exact ⟨envDecay_level_inUnit hlevel hs hd, hrel', fun h => absurd h (envDecay_stage hstage)⟩
  | sustain =>
    have heq : envNext binary32 e = envSustain e := by simp only [envNext, hstage]
    rw [heq]
    exact ⟨hs, hrel, fun h => absurd (hstage.symm.trans h) (by decide)⟩
  | release =>
    have heq : envNext binary32 e = envRelease binary32 e := by simp only [envNext, hstage]
    rw [heq]
    exact envRelease_sound hlevel hrel hr (by rw [hstage]; decide)

theorem envNoteOn_sound {e : Env} (he : EnvSound e) : EnvSound (envNoteOn binary32 e) :=
  ⟨inUnit_zero, he.2.1, nofun⟩

theorem envNoteOff_sound {e : Env} (he : EnvSound e) : EnvSound (envNoteOff e) := by
  unfold envNoteOff
  split_ifs
  · exact he
  · exact ⟨he.1, he.1, nofun⟩

/-! ### The velocity and the base frequency of a note (R247, R248) -/

/-- Converted integers are ordered as the integers (R16). -/
theorem itof_inRange {a b n : Int} (ha : a.natAbs ≤ 2 ^ 24) (hb : b.natAbs ≤ 2 ^ 24) (hn : a ≤ n ∧ n ≤ b) :
    InRange (itof a) (itof b) (itof n) := by
  have hnan {k : Int} (hk : k.natAbs ≤ 2 ^ 24) : (itof k).isNaN = false := isFinite_not_isNaN (itof_isFinite hk)
  have hn' : n.natAbs ≤ 2 ^ 24 := by omega
  have hunit := unit_int_pos.le
  refine inRange_iff.2 ⟨hnan ha, hnan hb, hnan hn', ?_⟩
  rw [scaled_itof_of_le ha, scaled_itof_of_le hb, scaled_itof_of_le hn']
  exact ⟨mul_le_mul_of_nonneg_right hn.1 hunit, mul_le_mul_of_nonneg_right hn.2 hunit⟩

theorem noteVel_inUnit (vel : BitVec 7) : InUnit (noteVel hw vel) := by
  have hnum : InRange (itof 0) (itof 127) (itof (vel.toNat : Int)) := itof_inRange (by decide) (by decide) (by omega)
  exact div_inRange hnum (inRange_self (by decide)) (by decide) (by decide) (by decide) (by decide +kernel) (by decide +kernel)

/-- A note is at most six octaves below and five above the note of 440 Hz. -/
theorem noteOctave_inRange (note : BitVec 7) :
    InRange (itof (-6)) (itof 5) ((itof ((note.toNat : Int) - 69)).div F.twelve) := by
  have hdist : InRange (itof (-69)) (itof 58) (itof ((note.toNat : Int) - 69)) :=
    itof_inRange (by decide) (by decide) (by omega)
  exact div_inRange hdist (inRange_self (by decide)) (by decide) (by decide) (by decide) (by decide +kernel)
    (by decide +kernel)

theorem noteFreq_inRange (note : BitVec 7) : InRange F.zero ⟨0x465C0000#32⟩ (noteFreq hw note) := by
  obtain ⟨-, -, -, -, -, -, -, -, hint, hpos, hmono, -⟩ := machineFunctionsHaveTheNamedProperties
  have hoct := noteOctave_inRange note
  obtain ⟨hnonneg, -⟩ := hpos _ (hoct.isFinite (by decide))
  have hle := hmono _ _ (le_iff.2 ⟨hoct.isNaN, by decide, hoct.scaled.2⟩)
  rw [hint 5 (by decide) (by decide)] at hle
  have hpow : InRange F.zero (build false ((5 + 127 : Int).toNat * 2 ^ 23))
      (hw.fexp2 ((itof ((note.toNat : Int) - 69)).div F.twelve)) := by
    obtain ⟨-, hnan, h0⟩ := le_iff.1 hnonneg
    exact inRange_iff.2 ⟨by decide, by decide, hnan, h0, (le_iff.1 hle).2.2⟩
  exact mul_inRange (inRange_self (by decide)) hpow (by decide) (by decide) (by decide) (by decide +kernel)

end Machine
end Sys2Proof
end

section
/-! The parameter registers as data (10_state.md R31, 47_parameter_commands.md R290 to R317): for each its address, its domain,
what its setter stores and what it gives a voice. What a setter does to the engine invariant and to the register reads is then
proved once, of every register. -/

namespace Sys2Proof

namespace Machine

open F

/-! ### The sound state, which no setter touches -/

section
variable {v w : Voice} (h : soundState v = soundState w)
include h

/-- `VOICE_STAT` reads the sound state alone (R36). -/
theorem voiceStatWord_of_soundState : voiceStatWord v = voiceStatWord w := by
  simp only [soundState, Prod.mk.injEq] at h
  obtain ⟨⟨hnote, hvel, -⟩, -, -, -, ⟨hamp, -⟩, hflt, -⟩ := h
  simp only [voiceStatWord, hnote, hvel, hamp, hflt]

theorem voiceIsActive_of_soundState : voiceIsActive v = voiceIsActive w := by
  simp only [soundState, Prod.mk.injEq] at h
  obtain ⟨-, -, -, -, ⟨hamp, -⟩, -⟩ := h
  simp only [voiceIsActive, envIsActive, hamp]

/-- What R38 to R43 and R51 ask of a voice is about its sound state alone. -/
theorem voiceSound_of_soundState (hw : VoiceSound w) : VoiceSound v := by
  simp only [soundState, Prod.mk.injEq] at h
  obtain ⟨⟨-, -, hvel, hbase⟩, ⟨hosc1, hosc2, hwt, hlfo⟩, -, -, ⟨hamp, hampLevel, hampRel⟩, hflt, hfltLevel, hfltRel⟩ := h
  simpa only [VoiceSound, EnvSound, hvel, hbase, hosc1, hosc2, hwt, hlfo, hamp, hampLevel, hampRel, hflt, hfltLevel, hfltRel]
    using hw

end

/-! ### The words of the parameter registers -/

/-- The words that the addresses 0x10 to 0x2A read as, in order (R31, R88). -/
def paramWords (p : Params) : List Word :=
  [kWord p.osc1Wave.code, kWord p.osc2Wave.code, p.osc1Detune.bits, p.osc2Detune.bits, p.osc1Pw.bits, p.osc2Pw.bits,
    p.oscMix.bits, p.wtMix.bits, kWord p.wtTable, p.wtPos.bits, p.fltCutoff.bits, p.fltRes.bits, p.fltEnvAmt.bits,
    p.fltDrive.bits, p.ampAttack.bits, p.ampDecay.bits, p.ampSustain.bits, p.ampRelease.bits, p.fenvAttack.bits,
    p.fenvDecay.bits, p.fenvSustain.bits, p.fenvRelease.bits, p.lfoRate.bits, kWord p.lfoWave.code, p.lfoToFilter.bits,
    p.lfoToPitch.bits, p.masterVol.bits]

theorem paramWords_length (p : Params) : (paramWords p).length = 27 := rfl

theorem paramRead_eq (p : Params) {a : Nat} (h : 0x10 ≤ a ∧ a ≤ 0x2A) :
    some (paramRead binary32 p a) = (paramWords p)[a - 0x10]? := by
  obtain ⟨hlo, hhi⟩ := h
  interval_cases a <;> rfl

theorem paramRead_of_out (p : Params) {a : Nat} (h : ¬ (0x10 ≤ a ∧ a ≤ 0x2A)) : paramRead binary32 p a = 0#32 := by
  unfold paramRead
  split
  case h_28 => rfl
  all_goals exact absurd (by decide) h

/-! ### Registers -/

/-- `a` is the address of a parameter register whose value is stored by `store` and given to each voice by `copy` (R290): it reads
as `word` of the value, no other address reads it, a voice keeps its sound, and a value of the register's domain `ok`
keeps the registers in their domains and the copies equal to them. -/
structure IsRegister {β : Type} (a : BitVec 8) (ok : β → Prop) (word : β → Word) (store : Params → β → Params)
    (copy : Voice → β → Voice) : Prop where
  address : 0x10 ≤ a.toNat ∧ a.toNat ≤ 0x2A
  words : ∀ p x, paramWords (store p x) = (paramWords p).set (a.toNat - 0x10) (word x)
  sound : ∀ v x, soundState (copy v x) = soundState v
  domain : ∀ s x, ok x → InDomain s → InDomain { s with params := store s.params x }
  copies : ∀ p fs v x, ok x → VoiceCopies p fs v → VoiceCopies (store p x) fs (copy v x)

/-- The 23 parameter registers that hold a number (R31). -/
inductive RealParam where
  | osc1Detune | osc2Detune | osc1Pw | osc2Pw | oscMix | wtMix | wtPos | fltCutoff | fltRes | fltEnvAmt | fltDrive
  | ampAttack | ampDecay | ampSustain | ampRelease | fenvAttack | fenvDecay | fenvSustain | fenvRelease
  | lfoRate | lfoToFilter | lfoToPitch | masterVol

namespace RealParam

def address : RealParam → BitVec 8
  | osc1Detune => 0x12#8
  | osc2Detune => 0x13#8
  | osc1Pw => 0x14#8
  | osc2Pw => 0x15#8
  | oscMix => 0x16#8
  | wtMix => 0x17#8
  | wtPos => 0x19#8
  | fltCutoff => 0x1A#8
  | fltRes => 0x1B#8
  | fltEnvAmt => 0x1C#8
  | fltDrive => 0x1D#8
  | ampAttack => 0x1E#8
  | ampDecay => 0x1F#8
  | ampSustain => 0x20#8
  | ampRelease => 0x21#8
  | fenvAttack => 0x22#8
  | fenvDecay => 0x23#8
  | fenvSustain => 0x24#8
  | fenvRelease => 0x25#8
  | lfoRate => 0x26#8
  | lfoToFilter => 0x28#8
  | lfoToPitch => 0x29#8
  | masterVol => 0x2A#8

/-- The bounds of the register's domain (R31). -/
def bounds : RealParam → F × F
  | osc1Pw | osc2Pw => (Config.pwMin, Config.pwMax)
  | fltCutoff => (Config.cutMin, Config.cutMax)
  | fltDrive => (F.zero, hw.driveMax)
  | ampAttack | ampDecay | ampRelease | fenvAttack | fenvDecay | fenvRelease => (hw.tMin, hw.tMax)
  | lfoRate => (Config.lfoMin, Config.lfoMax)
  | osc1Detune | osc2Detune | oscMix | wtMix | wtPos | fltRes | fltEnvAmt | ampSustain | fenvSustain | lfoToFilter
  | lfoToPitch | masterVol => (F.zero, F.one)

/-- The register's setter. -/
def setter : RealParam → F → Instr
  | osc1Detune => .setOsc1Detune
  | osc2Detune => .setOsc2Detune
  | osc1Pw => .setOsc1Pw
  | osc2Pw => .setOsc2Pw
  | oscMix => .setOscMix
  | wtMix => .setWtMix
  | wtPos => .setWtPos
  | fltCutoff => .setFltCutoff
  | fltRes => .setFltRes
  | fltEnvAmt => .setFltEnvAmt
  | fltDrive => .setFltDrive
  | ampAttack => .setAmpAttack
  | ampDecay => .setAmpDecay
  | ampSustain => .setAmpSustain
  | ampRelease => .setAmpRelease
  | fenvAttack => .setFenvAttack
  | fenvDecay => .setFenvDecay
  | fenvSustain => .setFenvSustain
  | fenvRelease => .setFenvRelease
  | lfoRate => .setLfoRate
  | lfoToFilter => .setLfoToFilter
  | lfoToPitch => .setLfoToPitch
  | masterVol => .setMasterVol

/-- The parameter registers with `x` in this one. -/
def store (r : RealParam) (p : Params) (x : F) : Params :=
  match r with
  | osc1Detune => { p with osc1Detune := x }
  | osc2Detune => { p with osc2Detune := x }
  | osc1Pw => { p with osc1Pw := x }
  | osc2Pw => { p with osc2Pw := x }
  | oscMix => { p with oscMix := x }
  | wtMix => { p with wtMix := x }
  | wtPos => { p with wtPos := x }
  | fltCutoff => { p with fltCutoff := x }
  | fltRes => { p with fltRes := x }
  | fltEnvAmt => { p with fltEnvAmt := x }
  | fltDrive => { p with fltDrive := x }
  | ampAttack => { p with ampAttack := x }
  | ampDecay => { p with ampDecay := x }
  | ampSustain => { p with ampSustain := x }
  | ampRelease => { p with ampRelease := x }
  | fenvAttack => { p with fenvAttack := x }
  | fenvDecay => { p with fenvDecay := x }
  | fenvSustain => { p with fenvSustain := x }
  | fenvRelease => { p with fenvRelease := x }
  | lfoRate => { p with lfoRate := x }
  | lfoToFilter => { p with lfoToFilter := x }
  | lfoToPitch => { p with lfoToPitch := x }
  | masterVol => { p with masterVol := x }

/-- A voice with its copy of the register set to `x`, through the component's setter. -/
def copy (r : RealParam) (v : Voice) (x : F) : Voice :=
  match r with
  | osc1Detune => { v with osc1 := oscSetDetune binary32 v.osc1 x }
  | osc2Detune => { v with osc2 := oscSetDetune binary32 v.osc2 x }
  | osc1Pw => { v with osc1 := oscSetPulseWidth binary32 v.osc1 x }
  | osc2Pw => { v with osc2 := oscSetPulseWidth binary32 v.osc2 x }
  | oscMix => { v with oscMix := x }
  | wtMix => { v with wtMix := x }
  | wtPos => { v with wt := wtSetPosition binary32 v.wt x }
  | fltCutoff => { v with baseCutoff := x }
  | fltRes => { v with flt := fltSetResonance binary32 v.flt x }
  | fltEnvAmt => { v with envAmt := x }
  | fltDrive => { v with flt := fltSetDrive hw v.flt x }
  | ampAttack => { v with ampEnv := envSetAttack hw v.ampEnv x }
  | ampDecay => { v with ampEnv := envSetDecay hw v.ampEnv x }
  | ampSustain => { v with ampEnv := envSetSustain binary32 v.ampEnv x }
  | ampRelease => { v with ampEnv := envSetRelease hw v.ampEnv x }
  | fenvAttack => { v with fltEnv := envSetAttack hw v.fltEnv x }
  | fenvDecay => { v with fltEnv := envSetDecay hw v.fltEnv x }
  | fenvSustain => { v with fltEnv := envSetSustain binary32 v.fltEnv x }
  | fenvRelease => { v with fltEnv := envSetRelease hw v.fltEnv x }
  | lfoRate => { v with lfo := lfoSetRate binary32 v.lfo x }
  | lfoToFilter => { v with lfoToFlt := x }
  | lfoToPitch => { v with lfoToPitch := x }
  | masterVol => v

/-- The setter is the common shape of R290 with the register's bounds. -/
theorem effect_setter (r : RealParam) (val : F) (s : State) :
    effect hw (r.setter val) s = setReal binary32 val r.bounds.1 r.bounds.2 r.store r.copy s := by cases r <;> rfl

theorem bounds_le (r : RealParam) : r.bounds.1.le r.bounds.2 = true := by cases r <;> decide

theorem inDomain_store (r : RealParam) (s : State) (x : F) (hx : InRange r.bounds.1 r.bounds.2 x) (h : InDomain s) :
    InDomain { s with params := r.store s.params x } := by
  cases r <;> simp_all [InDomain, InUnit, store, bounds]

theorem voiceCopies_copy (r : RealParam) (p : Params) (fs : F) (v : Voice) (x : F)
    (hx : InRange r.bounds.1 r.bounds.2 x) (h : VoiceCopies p fs v) : VoiceCopies (r.store p x) fs (r.copy v x) := by
  have hclamp := clamp_of_within hx
  cases r <;>
    simp_all [VoiceCopies, OscCopies, EnvCopies, store, copy, bounds, oscSetDetune, oscSetPulseWidth, wtSetPosition,
      fltSetResonance, fltSetDrive, envSetAttack, envSetDecay, envSetSustain, envSetRelease, envRecompute, clampTime, lfoSetRate]

theorem isRegister (r : RealParam) :
    IsRegister r.address (InRange r.bounds.1 r.bounds.2) F.bits r.store r.copy where
  address := by cases r <;> decide
  words _ _ := by cases r <;> rfl
  sound _ _ := by cases r <;> rfl
  domain := r.inDomain_store
  copies := r.voiceCopies_copy

end RealParam

/-- The three registers that hold a waveform kind (R31, R33). -/
inductive WaveParam where
  | osc1Wave | osc2Wave | lfoWave

namespace WaveParam

def address : WaveParam → BitVec 8
  | osc1Wave => 0x10#8
  | osc2Wave => 0x11#8
  | lfoWave => 0x27#8

/-- The register's setter. -/
def setter : WaveParam → WaveformKind → Instr
  | osc1Wave => .setOsc1Wave
  | osc2Wave => .setOsc2Wave
  | lfoWave => .setLfoWave

/-- The parameter registers with the kind `k` in this one. -/
def store (r : WaveParam) (p : Params) (k : WaveformKind) : Params :=
  match r with
  | osc1Wave => { p with osc1Wave := k }
  | osc2Wave => { p with osc2Wave := k }
  | lfoWave => { p with lfoWave := k }

/-- A voice with its copy of the register set to `k`. -/
def copy (r : WaveParam) (v : Voice) (k : WaveformKind) : Voice :=
  match r with
  | osc1Wave => { v with osc1 := oscSetWaveform v.osc1 k }
  | osc2Wave => { v with osc2 := oscSetWaveform v.osc2 k }
  | lfoWave => { v with lfo := lfoSetWaveform v.lfo k }

theorem effect_setter (r : WaveParam) (k : WaveformKind) (s : State) :
    effect hw (r.setter k) s = setParam k r.store r.copy s := by cases r <;> rfl

theorem voiceCopies_copy (r : WaveParam) (p : Params) (fs : F) (v : Voice) (k : WaveformKind) (h : VoiceCopies p fs v) :
    VoiceCopies (r.store p k) fs (r.copy v k) := by
  cases r <;> simp_all [VoiceCopies, OscCopies, store, copy, oscSetWaveform, lfoSetWaveform]

theorem isRegister (r : WaveParam) :
    IsRegister r.address (fun _ => True) (fun k => kWord k.code) r.store r.copy where
  address := by cases r <;> decide
  words _ _ := by cases r <;> rfl
  sound _ _ := by cases r <;> rfl
  domain _ _ _ h := by cases r <;> exact h
  copies p fs v k _ := r.voiceCopies_copy p fs v k

end WaveParam

/-- `WT_TABLE` (R31, R299). -/
theorem wtTable_isRegister :
    IsRegister 0x18#8 (fun _ => True) kWord (fun p t => { p with wtTable := t })
      (fun v t => { v with wt := wtSetTable v.wt t }) where
  address := by decide
  words _ _ := rfl
  sound _ _ := rfl
  domain _ _ _ h := h
  copies _ _ _ _ _ h := by simp_all [VoiceCopies, wtSetTable]

/-! ### What a register read sees of a setter (R87, R323) -/

/-- A read depends on the register of its address, on the flags and on the voices' sound. -/
theorem regRead_congr {s t : State} {b : BitVec 8} (hrate : b.toNat = 0x08 → t.sampleRate = s.sampleRate)
    (hretrig : t.lfoRetrig = s.lfoRetrig) (herr : t.cmdErr = s.cmdErr)
    (hsound : ∀ i : Fin 16, soundState t.voices[i] = soundState s.voices[i])
    (hparam : paramRead binary32 t.params b.toNat = paramRead binary32 s.params b.toNat) : regRead b t = regRead b s := by
  have hactive : active t = active s := funext fun i => voiceIsActive_of_soundState (hsound i)
  unfold regRead regReadIn
  split_ifs with h8 h9 hA hB hstat
  · rw [hrate h8]
  · rw [ctrlWord, ctrlWord, hretrig]
  · rw [statusWord, statusWord, herr]
  · rw [activeWord, activeWord, hactive]
  · exact voiceStatWord_of_soundState (hsound ⟨b.toNat - 0x40, by omega⟩)
  · exact hparam

theorem regRead_param {s : State} {b : BitVec 8} (h : 0x10 ≤ b.toNat ∧ b.toNat ≤ 0x2A) :
    regRead b s = paramRead binary32 s.params b.toNat := by
  unfold regRead regReadIn
  rw [if_neg (by omega), if_neg (by omega), if_neg (by omega), if_neg (by omega), dif_neg (by omega)]

section
variable {β : Type} {a : BitVec 8} {ok : β → Prop} {word : β → Word} {store : Params → β → Params} {copy : Voice → β → Voice}
  (h : IsRegister a ok word store copy) (x : β)
include h

theorem paramRead_store_same (p : Params) : paramRead binary32 (store p x) a.toNat = word x := by
  have hlen : a.toNat - 0x10 < (paramWords p).length := by
    have := h.address
    rw [paramWords_length]
    omega
  have heq := paramRead_eq (store p x) h.address
  rw [h.words, List.getElem?_set_self hlen] at heq
  exact Option.some.inj heq

theorem paramRead_store_other (p : Params) {n : Nat} (hn : n ≠ a.toNat) :
    paramRead binary32 (store p x) n = paramRead binary32 p n := by
  by_cases hin : 0x10 ≤ n ∧ n ≤ 0x2A
  · have hne : a.toNat - 0x10 ≠ n - 0x10 := by
      have := h.address
      omega
    apply Option.some.inj
    rw [paramRead_eq _ hin, paramRead_eq _ hin, h.words, List.getElem?_set_ne hne]
  · rw [paramRead_of_out _ hin, paramRead_of_out _ hin]

theorem soundState_setParam (s : State) (i : Fin 16) :
    soundState (setParam x store copy s).voices[i] = soundState s.voices[i] := by
  rw [setParam_voices, Fin.getElem_fin, mapVoices_get]
  exact h.sound _ x

theorem regRead_setParam_same (s : State) : regRead a (setParam x store copy s) = word x := by
  rw [regRead_param h.address, setParam_params, paramRead_store_same h]

theorem regRead_setParam_other (s : State) {b : BitVec 8} (hb : b ≠ a) :
    regRead b (setParam x store copy s) = regRead b s :=
  regRead_congr (fun _ => rfl) rfl rfl (soundState_setParam h x s)
    (paramRead_store_other h x s.params (fun heq => hb (BitVec.eq_of_toNat_eq heq)))

end

theorem readsBackReal_of_register {a : BitVec 8} {ok : F → Prop} {store : Params → F → Params} {copy : Voice → F → Voice}
    (h : IsRegister a ok F.bits store copy) {mk : F → Instr} {lo hi : F}
    (hmk : ∀ val s, effect hw (mk val) s = setReal binary32 val lo hi store copy s) : ReadsBackReal a mk lo hi := by
  intro val s hval
  have heffect : effect hw (mk val) s = setParam (val.clamp lo hi) store copy s := by
    rw [hmk, setReal_real _ _ _ _ _ _ _ hval]
    rfl
  refine ⟨_, exec_eq _ _, ?_⟩
  rw [heffect]
  exact ⟨regRead_setParam_same h _ s, fun b hb => regRead_setParam_other h _ s hb⟩

theorem kWord_toNat (k : BitVec 3) : (kWord k).toNat = k.toNat := by
  revert k
  decide

theorem readsBackIndex_of_register {β : Type} {a : BitVec 8} {ok : β → Prop} {code : β → BitVec 3}
    {store : Params → β → Params} {copy : Voice → β → Voice} (h : IsRegister a ok (fun x => kWord (code x)) store copy)
    {mk : β → Instr} (hmk : ∀ x s, effect hw (mk x) s = setParam x store copy s) : ReadsBackIndex a mk code := by
  intro x s
  refine ⟨_, exec_eq _ _, ?_⟩
  rw [hmk]
  exact ⟨(congrArg BitVec.toNat (regRead_setParam_same h x s)).trans (kWord_toNat _),
    fun b hb => regRead_setParam_other h x s hb⟩

theorem RealParam.readsBack (r : RealParam) : ReadsBackReal r.address r.setter r.bounds.1 r.bounds.2 :=
  readsBackReal_of_register r.isRegister r.effect_setter

theorem WaveParam.readsBack (r : WaveParam) : ReadsBackIndex r.address r.setter WaveformKind.code :=
  readsBackIndex_of_register r.isRegister r.effect_setter

theorem soundState_putSampleRate (x : F) (s : State) (i : Fin 16) :
    soundState (putSampleRate binary32 x s).voices[i] = soundState s.voices[i] := by
  rw [putSampleRate_voices, Fin.getElem_fin, mapVoices_get]
  rfl

theorem sampleRate_readsBack : ReadsBackReal 0x08#8 .setSampleRate hw.fsMin hw.fsMax := by
  intro val s hval
  have heffect : effect hw (.setSampleRate val) s = putSampleRate binary32 (val.clamp hw.fsMin hw.fsMax) s :=
    withReal_real binary32 val (fun x => x.clamp hw.fsMin hw.fsMax) (putSampleRate binary32) s hval
  refine ⟨_, exec_eq _ _, ?_⟩
  rw [heffect]
  exact ⟨rfl, fun b hb => regRead_congr (fun h8 => absurd (BitVec.eq_of_toNat_eq h8) hb) rfl rfl
    (soundState_putSampleRate _ s) rfl⟩

/-- Settles O23: every setter is one of a register (`IsRegister`), and `SET_SAMPLE_RATE` writes no parameter register. -/
theorem readReturnsTheClampedValueWritten : Obligations.ReadReturnsTheClampedValueWritten :=
  ⟨sampleRate_readsBack, readsBackReal_of_register RealParam.wtPos.isRegister (fun _ _ => rfl),
    WaveParam.osc1Wave.readsBack, WaveParam.osc2Wave.readsBack, RealParam.osc1Detune.readsBack,
    RealParam.osc2Detune.readsBack, RealParam.osc1Pw.readsBack, RealParam.osc2Pw.readsBack, RealParam.oscMix.readsBack,
    RealParam.wtMix.readsBack, readsBackIndex_of_register wtTable_isRegister (fun _ _ => rfl), RealParam.wtPos.readsBack,
    RealParam.fltCutoff.readsBack, RealParam.fltRes.readsBack, RealParam.fltEnvAmt.readsBack, RealParam.fltDrive.readsBack,
    RealParam.ampAttack.readsBack, RealParam.ampDecay.readsBack, RealParam.ampSustain.readsBack,
    RealParam.ampRelease.readsBack, RealParam.fenvAttack.readsBack, RealParam.fenvDecay.readsBack,
    RealParam.fenvSustain.readsBack, RealParam.fenvRelease.readsBack, RealParam.lfoRate.readsBack,
    WaveParam.lfoWave.readsBack, RealParam.lfoToFilter.readsBack, RealParam.lfoToPitch.readsBack,
    RealParam.masterVol.readsBack⟩

end Machine
end Sys2Proof
end

section
/-! The commands by what they are (30_encoding.md R114), and the two output streams under each (10_state.md R47). -/

namespace Sys2Proof

namespace Machine

/-- The commands, the setters of the parameter registers taken together. -/
inductive IsCommand : Instr → Prop where
  | nop : IsCommand .nop
  | noteOn (note vel : BitVec 7) : IsCommand (.noteOn note vel)
  | noteOff (note : BitVec 7) : IsCommand (.noteOff note)
  | process (count : BitVec 32) : IsCommand (.process count)
  | bioHrv (val : F) : IsCommand (.bioHrv val)
  | bioCoh (val : F) : IsCommand (.bioCoh val)
  | setSampleRate (val : F) : IsCommand (.setSampleRate val)
  | setCtrl (b : Bool) : IsCommand (.setCtrl b)
  | clrStatus (b : Bool) : IsCommand (.clrStatus b)
  | real (r : RealParam) (val : F) : IsCommand (r.setter val)
  | wave (r : WaveParam) (k : WaveformKind) : IsCommand (r.setter k)
  | table (t : BitVec 3) : IsCommand (.setWtTable t)
  | rd (a : BitVec 8) : IsCommand (.rd a)

theorem isCommand (i : Instr) : IsCommand i := by
  cases i with
  | nop => exact .nop
  | noteOn note vel => exact .noteOn note vel
  | noteOff note => exact .noteOff note
  | process count => exact .process count
  | bioHrv val => exact .bioHrv val
  | bioCoh val => exact .bioCoh val
  | setSampleRate val => exact .setSampleRate val
  | setCtrl b => exact .setCtrl b
  | clrStatus b => exact .clrStatus b
  | setOsc1Wave k => exact .wave .osc1Wave k
  | setOsc2Wave k => exact .wave .osc2Wave k
  | setOsc1Detune val => exact .real .osc1Detune val
  | setOsc2Detune val => exact .real .osc2Detune val
  | setOsc1Pw val => exact .real .osc1Pw val
  | setOsc2Pw val => exact .real .osc2Pw val
  | setOscMix val => exact .real .oscMix val
  | setWtMix val => exact .real .wtMix val
  | setWtTable t => exact .table t
  | setWtPos val => exact .real .wtPos val
  | setFltCutoff val => exact .real .fltCutoff val
  | setFltRes val => exact .real .fltRes val
  | setFltEnvAmt val => exact .real .fltEnvAmt val
  | setFltDrive val => exact .real .fltDrive val
  | setAmpAttack val => exact .real .ampAttack val
  | setAmpDecay val => exact .real .ampDecay val
  | setAmpSustain val => exact .real .ampSustain val
  | setAmpRelease val => exact .real .ampRelease val
  | setFenvAttack val => exact .real .fenvAttack val
  | setFenvDecay val => exact .real .fenvDecay val
  | setFenvSustain val => exact .real .fenvSustain val
  | setFenvRelease val => exact .real .fenvRelease val
  | setLfoRate val => exact .real .lfoRate val
  | setLfoWave k => exact .wave .lfoWave k
  | setLfoToFilter val => exact .real .lfoToFilter val
  | setLfoToPitch val => exact .real .lfoToPitch val
  | setMasterVol val => exact .real .masterVol val
  | rd a => exact .rd a

/-- An `F`-format command sets `CMDERR` alone, or acts on the conformed value. -/
theorem withReal_keeps {P : State → Prop} {val : F} {conform : F → F} {act : F → State → State} {s : State}
    (hnan : P { s with cmdErr := true }) (hreal : val.isNaN = false → P (act (conform val) s)) :
    P (withReal binary32 val conform act s) := by
  cases h : val.isNaN with
  | true => rwa [withReal_nan binary32 val conform act s h]
  | false =>
    rw [withReal_real binary32 val conform act s h]
    exact hreal h

/-- A read appends one response and may set `CMDERR`; nothing else changes (R321, R352). -/
theorem rd_eq (a : BitVec 8) (s : State) :
    ∃ (err : Bool) (w : Word), rd binary32 a s = { s with cmdErr := err, responses := s.responses ++ [w] } := by
  unfold rd
  split
  · exact ⟨s.cmdErr, regReadIn binary32 a s, rfl⟩
  · exact ⟨true, 0#32, rfl⟩

/-! ### The streams and the port -/

/-- The presented words and both output streams are those of `s`. -/
def SameStreams (s t : State) : Prop := t.port = s.port ∧ t.frames = s.frames ∧ t.responses = s.responses

/-- No command touches the port; `PROCESS` alone emits frames, and a read alone responds (R47, R83, R90). -/
theorem effect_streams (i : Instr) (s : State) :
    (effect hw i s).port = s.port ∧ ((∀ k, i ≠ .process k) → (effect hw i s).frames = s.frames) ∧
      ((∀ a, i ≠ .rd a) → (effect hw i s).responses = s.responses) := by
  have weaken {t : State} (h : SameStreams s t) : t.port = s.port ∧ ((∀ k, i ≠ .process k) → t.frames = s.frames) ∧
      ((∀ a, i ≠ .rd a) → t.responses = s.responses) := ⟨h.1, fun _ => h.2.1, fun _ => h.2.2⟩
  have same : SameStreams s s := ⟨rfl, rfl, rfl⟩
  cases isCommand i with
  | nop => exact weaken same
  | noteOn note vel => exact weaken same
  | noteOff note => exact weaken same
  | process k => exact ⟨processFrames_port _ _ _, fun h => absurd rfl (h k), fun _ => processFrames_responses _ _ _⟩
  | bioHrv val => exact weaken (withReal_keeps (P := SameStreams s) same fun _ => same)
  | bioCoh val => exact weaken (withReal_keeps (P := SameStreams s) same fun _ => same)
  | setSampleRate val => exact weaken (withReal_keeps (P := SameStreams s) same fun _ => same)
  | setCtrl b => exact weaken same
  | clrStatus b => cases b <;> exact weaken same
  | real r val => rw [r.effect_setter]; exact weaken (withReal_keeps (P := SameStreams s) same fun _ => same)
  | wave r k => rw [r.effect_setter]; exact weaken same
  | table t => exact weaken same
  | rd a =>
    obtain ⟨err, w, heq⟩ := rd_eq a s
    rw [show effect hw (.rd a) s = rd binary32 a s from rfl, heq]
    exact ⟨rfl, fun _ => rfl, fun h => absurd rfl (h a)⟩

theorem processFrames_frames_prefix (n : Nat) (s : State) : s.frames <+: (processFrames hw n s).frames :=
  processFrames_keeps (P := fun t => s.frames <+: t.frames) hw
    (fun t h => by rw [frame_frames]; exact h.trans (List.prefix_append _ _)) n s (List.prefix_refl _)

theorem effect_frames_prefix (i : Instr) (s : State) : s.frames <+: (effect hw i s).frames := by
  by_cases h : ∃ k, i = .process k
  · obtain ⟨k, rfl⟩ := h
    exact processFrames_frames_prefix k.toNat s
  · rw [(effect_streams i s).2.1 fun k hk => h ⟨k, hk⟩]

theorem effect_responses_prefix (i : Instr) (s : State) : s.responses <+: (effect hw i s).responses := by
  by_cases h : ∃ a, i = .rd a
  · obtain ⟨a, rfl⟩ := h
    obtain ⟨err, w, heq⟩ := rd_eq a s
    rw [show effect hw (.rd a) s = rd binary32 a s from rfl, heq]
    exact List.prefix_append _ _
  · rw [(effect_streams i s).2.2 fun a ha => h ⟨a, ha⟩]

theorem reject_responses_prefix (r : Reject) (s : State) : s.responses <+: (reject r s).responses := by
  rw [reject_responses]
  split
  · exact List.prefix_append _ _
  · exact List.prefix_refl _

/-- What every command and every rejection keeps, every step keeps. -/
theorem stepIn_keeps {P : State → Prop} (hport : ∀ s ws, P s → P { s with port := ws })
    (heffect : ∀ i s, P s → P (effect hw i s)) (hreject : ∀ r s, P s → P (reject r s)) {s : State} (h : P s) :
    P (stepIn hw s) := by
  unfold stepIn
  split
  · exact h
  · next w rest _ =>
    obtain ⟨i, -, heq⟩ | ⟨r, -, heq⟩ := effectWord_cases hw w { s with port := rest }
    · exact heq ▸ heffect i _ (hport s rest h)
    · exact heq ▸ hreject r _ (hport s rest h)

theorem stepIn_streams_prefix (s : State) :
    s.frames <+: (stepIn hw s).frames ∧ s.responses <+: (stepIn hw s).responses :=
  stepIn_keeps (P := fun t => s.frames <+: t.frames ∧ s.responses <+: t.responses) (fun _ _ h => h)
    (fun i t h => ⟨h.1.trans (effect_frames_prefix i t), h.2.trans (effect_responses_prefix i t)⟩)
    (fun r t h => ⟨by rw [reject_frames]; exact h.1, h.2.trans (reject_responses_prefix r t)⟩)
    ⟨List.prefix_refl _, List.prefix_refl _⟩

theorem eq_of_next {s t : State} (h : (.next s : Result) = .next t) : s = t := Host.Outcome.next.inj h

/-- Settles O27: `effect_streams` says what each command leaves alone, and a frame or a response is only
appended. -/
theorem streamsOnlyGrow : Obligations.StreamsOnlyGrow := by
  refine ⟨fun s t h => ?_, fun i s t h => ?_⟩
  · rw [← eq_of_next ((step_eq s).symm.trans h)]
    exact stepIn_streams_prefix s
  · rw [← eq_of_next ((exec_eq i s).symm.trans h)]
    exact effect_streams i s

end Machine
end Sys2Proof
end

section
/-! The state after reset (10_state.md R31, R62, 70_reset_and_hazards.md R380, R381). -/

namespace Sys2Proof

namespace Machine

theorem resetIn_voice (c : Config) (i : Fin 16) : (resetIn c).voices[i] = Voice.reset c c.resetParams := by
  simp [resetIn]

/-- The sound of a voice after reset: everything is zero but the transient cutoff. -/
theorem soundState_reset {c : Config} (hnum : c.num = binary32) (p : Params) :
    soundState (Voice.reset c p) = ((0#7, 0#7, F.zero, F.zero), (F.zero, F.zero, F.zero, F.zero),
      (F.zero, F.zero, F.zero, c.resetCutoff), (F.zero, F.zero, F.zero, F.zero),
      (.idle, F.zero, F.zero), (.idle, F.zero, F.zero)) := by
  simp [soundState, Voice.reset, Osc.reset, Flt.reset, Env.reset, hnum]

theorem voiceCopies_reset {c : Config} (hnum : c.num = binary32) (p : Params) :
    VoiceCopies p c.fsReset (Voice.reset c p) := by
  simp [VoiceCopies, OscCopies, EnvCopies, Voice.reset, Osc.reset, Flt.reset, Env.reset, hnum]

theorem voiceSound_reset (p : Params) : VoiceSound (Voice.reset hw p) := by
  have henv : EnvSound (Env.reset hw p.ampAttack p.ampDecay p.ampSustain p.ampRelease) ∧
      EnvSound (Env.reset hw p.fenvAttack p.fenvDecay p.fenvSustain p.fenvRelease) :=
    ⟨⟨inUnit_zero, inUnit_zero, fun _ => rfl⟩, inUnit_zero, inUnit_zero, fun _ => rfl⟩
  exact ⟨isPhase_zero, isPhase_zero, isPhase_zero, isPhase_zero, henv.1, henv.2, inUnit_zero,
    (by decide : F.zero.le F.zero = true), (by decide : F.zero.isFinite = true)⟩

theorem fltBounded_reset (res drive : F) : FltBounded (Flt.reset hw res drive) := by
  have hzero : IsStage F.zero := inRange_iff.2 (by decide +kernel)
  exact ⟨hzero, hzero, hzero, hzero⟩

theorem inDomain_reset : InDomain State.reset := by
  unfold InDomain InUnit InRange
  decide +kernel

theorem voiceStat_reset (v : Fin 16) : regRead (BitVec.ofNat 8 (0x40 + v.val)) State.reset = 0#32 := by
  revert v
  decide

/-- Settles O56: the register words are computed, and the voices are all `Voice.reset`. -/
theorem resetStateIsTheSpecified : Obligations.ResetStateIsTheSpecified := by
  have hvoice (c : Config) (hnum : c.num = binary32) (v : Fin 16) :
      VoiceCopies (resetIn c).params (resetIn c).sampleRate (resetIn c).voices[v] ∧
      soundState (resetIn c).voices[v] = ((0#7, 0#7, F.zero, F.zero), (F.zero, F.zero, F.zero, F.zero),
        (F.zero, F.zero, F.zero, c.resetCutoff), (F.zero, F.zero, F.zero, F.zero),
        (.idle, F.zero, F.zero), (.idle, F.zero, F.zero)) := by
    rw [resetIn_voice]
    exact ⟨voiceCopies_reset hnum _, soundState_reset hnum _⟩
  refine ⟨rfl, rfl, rfl, rfl, fun v => ?_, rfl, rfl, fun c hnum => ⟨rfl, rfl, rfl, rfl, rfl, rfl, hvoice c hnum⟩⟩
  obtain ⟨hcopies, hsound⟩ := hvoice hw rfl v
  exact ⟨voiceStat_reset v, hsound, hcopies⟩

/-- Settles O57: the reset values of the registers lie in their domains, and every voice is `Voice.reset`. -/
theorem engineInvariantHoldsAtReset : Obligations.EngineInvariantHoldsAtReset := by
  refine ⟨⟨inDomain_reset, fun i => ?_, fun i => ?_⟩, fun i => ?_⟩ <;> rw [reset_eq, resetIn_voice]
  · exact voiceCopies_reset rfl _
  · exact voiceSound_reset _
  · exact fltBounded_reset _ _

end Machine
end Sys2Proof
end

section
/-! The engine invariant (10_state.md R44, R46, R51, R52) under every command: registers stay in their domains, copies stay
equal to them, and the voices stay sound. -/

namespace Sys2Proof

namespace Machine

open F

/-! ### The invariant's parts -/

/-- The value of the register (R31). -/
def RealParam.value (r : RealParam) (p : Params) : F :=
  match r with
  | osc1Detune => p.osc1Detune
  | osc2Detune => p.osc2Detune
  | osc1Pw => p.osc1Pw
  | osc2Pw => p.osc2Pw
  | oscMix => p.oscMix
  | wtMix => p.wtMix
  | wtPos => p.wtPos
  | fltCutoff => p.fltCutoff
  | fltRes => p.fltRes
  | fltEnvAmt => p.fltEnvAmt
  | fltDrive => p.fltDrive
  | ampAttack => p.ampAttack
  | ampDecay => p.ampDecay
  | ampSustain => p.ampSustain
  | ampRelease => p.ampRelease
  | fenvAttack => p.fenvAttack
  | fenvDecay => p.fenvDecay
  | fenvSustain => p.fenvSustain
  | fenvRelease => p.fenvRelease
  | lfoRate => p.lfoRate
  | lfoToFilter => p.lfoToFilter
  | lfoToPitch => p.lfoToPitch
  | masterVol => p.masterVol

section
variable {s : State} (h : InDomain s)
include h

theorem InDomain.value (r : RealParam) : InRange r.bounds.1 r.bounds.2 (r.value s.params) := by
  cases r <;> simp_all [InDomain, InUnit, RealParam.bounds, RealParam.value]

theorem InDomain.sampleRate : InRange hw.fsMin hw.fsMax s.sampleRate := by simp_all [InDomain]

/-- A register in its domain is not changed by a component's clamp. -/
theorem InDomain.clamp_value (r : RealParam) : (r.value s.params).clamp r.bounds.1 r.bounds.2 = r.value s.params :=
  clamp_of_within (h.value r)

end

/-- What the invariant asks of a voice, given the registers. -/
def VoiceInv (s : State) (v : Voice) : Prop := VoiceCopies s.params s.sampleRate v ∧ VoiceSound v

theorem EngineInv.voice {s : State} (h : EngineInv s) (i : Fin 16) : VoiceInv s s.voices[i] := ⟨h.2.1 i, h.2.2 i⟩

/-- The registers of `s`, and voices that meet what the invariant asks under them. -/
theorem engineInv_of_voices {s t : State} (h : InDomain s) (hparams : t.params = s.params)
    (hrate : t.sampleRate = s.sampleRate) (hvoices : ∀ i : Fin 16, VoiceInv s t.voices[i]) : EngineInv t := by
  refine ⟨?_, fun i => ?_, fun i => (hvoices i).2⟩
  · simpa only [InDomain, hparams, hrate] using h
  · rw [hparams, hrate]
    exact (hvoices i).1

/-- The invariant is about the registers and the voices. -/
theorem EngineInv.congr {s t : State} (h : EngineInv s) (hparams : t.params = s.params) (hrate : t.sampleRate = s.sampleRate)
    (hvoices : t.voices = s.voices) : EngineInv t :=
  engineInv_of_voices h.1 hparams hrate fun i => hvoices ▸ h.voice i

/-! ### Setters (R290, R318) -/

theorem setParam_engineInv {β : Type} {a : BitVec 8} {ok : β → Prop} {word : β → Word} {store : Params → β → Params}
    {copy : Voice → β → Voice} (hreg : IsRegister a ok word store copy) {x : β} (hx : ok x) {s : State} (h : EngineInv s) :
    EngineInv (setParam x store copy s) := by
  obtain ⟨hdomain, hcopies, hsound⟩ := h
  refine ⟨hreg.domain s x hx hdomain, fun i => ?_, fun i =>
    voiceSound_of_soundState (soundState_setParam hreg x s i) (hsound i)⟩
  rw [setParam_voices, Fin.getElem_fin, mapVoices_get]
  exact hreg.copies _ _ _ x hx (hcopies i)

theorem setReal_engineInv {a : BitVec 8} {lo hi : F} {word : F → Word} {store : Params → F → Params} {copy : Voice → F → Voice}
    (hreg : IsRegister a (InRange lo hi) word store copy) (hle : lo.le hi = true) (val : F) {s : State} (h : EngineInv s) :
    EngineInv (setReal binary32 val lo hi store copy s) := by
  cases hval : val.isNaN with
  | true =>
    rw [setReal_nan binary32 val lo hi store copy s hval]
    exact h.congr rfl rfl rfl
  | false =>
    rw [setReal_real binary32 val lo hi store copy s hval]
    exact setParam_engineInv hreg (clamp_inRange hval hle) h

/-- The cutoff of `BIO_HRV` lies in the register's domain (R275). -/
theorem bioCutoff_inRange {val : F} (hval : val.isNaN = false) : InRange Config.cutMin Config.cutMax (bioCutoff hw val) := by
  have hunit : InUnit (val.clamp F.zero F.one) := clamp_inRange hval (by decide)
  have hspan : InRange F.zero Config.bioCutSpanDefault ((val.clamp F.zero F.one).mul Config.bioCutSpanDefault) :=
    mul_inRange hunit (inRange_self (by decide)) (by decide) (by decide) (by decide) (by decide +kernel)
  have hsum := add_not_isNaN (a := Config.bioCutBaseDefault) (by decide) (hspan.isFinite (by decide))
  exact clamp_inRange hsum (by decide)

theorem voiceCopies_voiceSetSampleRate {p : Params} {fs : F} {v : Voice} (x : F) (h : VoiceCopies p fs v) :
    VoiceCopies p x (voiceSetSampleRate binary32 v x) := by
  simp_all [VoiceCopies, OscCopies, EnvCopies, voiceSetSampleRate, oscSetSampleRate, wtSetSampleRate, fltSetSampleRate,
    lfoSetSampleRate, envSetSampleRate, envRecompute]

theorem putSampleRate_engineInv {x : F} (hx : InRange hw.fsMin hw.fsMax x) {s : State} (h : EngineInv s) :
    EngineInv (putSampleRate binary32 x s) := by
  obtain ⟨hdomain, hcopies, hsound⟩ := h
  refine ⟨by simp_all [InDomain], fun i => ?_, fun i =>
    voiceSound_of_soundState (soundState_putSampleRate x s i) (hsound i)⟩
  rw [putSampleRate_voices, Fin.getElem_fin, mapVoices_get]
  exact voiceCopies_voiceSetSampleRate x (hcopies i)

/-! ### Notes (R246, R249, R250, R269) -/

/-- Replacing one voice keeps what holds of every voice. -/
theorem forall_set {P : Voice → Prop} {vs : Vector Voice 16} (h : ∀ j : Fin 16, P vs[j]) (i : Fin 16) {v : Voice} (hv : P v) :
    ∀ j : Fin 16, P (vs.set i v)[j] := by
  intro j
  rw [Fin.getElem_fin, Vector.getElem_set]
  split
  · exact hv
  · exact h j

theorem broadcastOsc_copies (o : Osc) (kind : WaveformKind) {pw detune : F} (fs : F)
    (hpw : pw.clamp Config.pwMin Config.pwMax = pw) (hdetune : detune.clamp F.zero F.one = detune) :
    OscCopies (broadcastOsc binary32 o kind pw detune fs) kind pw detune fs := ⟨rfl, hpw, hdetune, rfl⟩

theorem broadcastEnv_copies (e : Env) {a d x r : F} (fs : F) (ha : a.clamp hw.tMin hw.tMax = a)
    (hd : d.clamp hw.tMin hw.tMax = d) (hx : x.clamp F.zero F.one = x) (hr : r.clamp hw.tMin hw.tMax = r) :
    EnvCopies (broadcastEnv hw e a d x r fs) a d x r fs := by
  refine ⟨ha, hd, hx, hr, rfl, ?_, ?_, ?_⟩
  · exact congrArg (envRate binary32 · fs) ha
  · exact congrArg (envRate binary32 · fs) hd
  · exact congrArg (envRate binary32 · fs) hr

/-- `Broadcast` gives a voice the registers, whatever its copies were (R269). -/
theorem voiceCopies_broadcast {s : State} (h : InDomain s) (v : Voice) :
    VoiceCopies s.params s.sampleRate (broadcast hw s.params s.sampleRate v) := by
  have hclamp := h.clamp_value
  exact ⟨broadcastOsc_copies _ _ _ (hclamp .osc1Pw) (hclamp .osc1Detune),
    broadcastOsc_copies _ _ _ (hclamp .osc2Pw) (hclamp .osc2Detune), ⟨rfl, hclamp .wtPos, rfl⟩,
    ⟨hclamp .fltRes, hclamp .fltDrive, rfl⟩,
    broadcastEnv_copies _ _ (hclamp .ampAttack) (hclamp .ampDecay) (hclamp .ampSustain) (hclamp .ampRelease),
    broadcastEnv_copies _ _ (hclamp .fenvAttack) (hclamp .fenvDecay) (hclamp .fenvSustain) (hclamp .fenvRelease),
    ⟨hclamp .lfoRate, rfl, rfl⟩, rfl, rfl, rfl, rfl, rfl, rfl⟩

theorem soundState_broadcast (p : Params) (fs : F) (v : Voice) : soundState (broadcast hw p fs v) = soundState v := by
  unfold soundState broadcast broadcastOsc broadcastEnv
  rfl

theorem voiceCopies_voiceNoteOn {p : Params} {fs : F} {v : Voice} (retrig : Bool) (note vel : BitVec 7)
    (h : VoiceCopies p fs v) : VoiceCopies p fs (voiceNoteOn hw retrig note vel v) := by
  cases retrig <;> exact h

theorem voiceSound_voiceNoteOn {v : Voice} (retrig : Bool) (note vel : BitVec 7) (h : VoiceSound v) :
    VoiceSound (voiceNoteOn hw retrig note vel v) := by
  obtain ⟨-, -, -, hlfo, hamp, hflt, -, -⟩ := h
  have hlfo' : IsPhase (voiceNoteOn hw retrig note vel v).lfo.phase := by
    cases retrig
    · exact hlfo
    · exact isPhase_zero
  have hfreq := noteFreq_inRange note
  exact ⟨isPhase_zero, isPhase_zero, isPhase_zero, hlfo', envNoteOn_sound hamp, envNoteOn_sound hflt, noteVel_inUnit vel,
    le_iff.2 ⟨by decide, hfreq.isNaN, hfreq.scaled.1⟩, hfreq.isFinite (by decide)⟩

theorem noteOn_engineInv (note vel : BitVec 7) {s : State} (h : EngineInv s) : EngineInv (noteOn hw note vel s) := by
  refine engineInv_of_voices h.1 rfl rfl (forall_set (P := VoiceInv s) h.voice (allocate s) ⟨?_, ?_⟩)
  · exact voiceCopies_voiceNoteOn _ _ _ (voiceCopies_broadcast h.1 _)
  · exact voiceSound_voiceNoteOn _ _ _ (voiceSound_of_soundState (soundState_broadcast _ _ _) (h.voice (allocate s)).2)

theorem envCopies_envNoteOff {e : Env} {a d x r fs : F} (h : EnvCopies e a d x r fs) :
    EnvCopies (envNoteOff e) a d x r fs := by
  unfold envNoteOff
  split
  · exact h
  · exact h

theorem voiceCopies_voiceNoteOff {p : Params} {fs : F} {v : Voice} (h : VoiceCopies p fs v) :
    VoiceCopies p fs (voiceNoteOff v) := by
  obtain ⟨hosc1, hosc2, hwt, hflt, hamp, hfenv, hrest⟩ := h
  exact ⟨hosc1, hosc2, hwt, hflt, envCopies_envNoteOff hamp, envCopies_envNoteOff hfenv, hrest⟩

theorem voiceSound_voiceNoteOff {v : Voice} (h : VoiceSound v) : VoiceSound (voiceNoteOff v) := by
  obtain ⟨hosc1, hosc2, hwt, hlfo, hamp, hflt, hrest⟩ := h
  exact ⟨hosc1, hosc2, hwt, hlfo, envNoteOff_sound hamp, envNoteOff_sound hflt, hrest⟩

theorem noteOff_engineInv (note : BitVec 7) {s : State} (h : EngineInv s) : EngineInv (noteOff note s) := by
  refine engineInv_of_voices h.1 rfl rfl fun i => ?_
  obtain ⟨hcopies, hsound⟩ := h.voice i
  rw [noteOff_voices, Fin.getElem_fin, mapVoices_get]
  unfold releaseIfNote
  split
  · exact ⟨voiceCopies_voiceNoteOff hcopies, voiceSound_voiceNoteOff hsound⟩
  · exact ⟨hcopies, hsound⟩

/-! ### `PROCESS` (R251, R272) -/

theorem voiceCopies_voiceProcess {p : Params} {fs : F} {v : Voice} (n : Nat) (h : VoiceCopies p fs v) :
    VoiceCopies p fs (voiceProcess hw n v).2.1 := by
  simpa [VoiceCopies, OscCopies, EnvCopies] using h

/-- One sample keeps an envelope whose copies are registers of their domains sound. -/
theorem envNext_sound_of_copies {e : Env} {a d x r fs : F} (hcopies : EnvCopies e a d x r fs)
    (ha : InRange hw.tMin hw.tMax a) (hd : InRange hw.tMin hw.tMax d) (hx : InUnit x) (hr : InRange hw.tMin hw.tMax r)
    (hfs : InRange hw.fsMin hw.fsMax fs) (he : EnvSound e) : EnvSound (envNext binary32 e) := by
  obtain ⟨-, -, hsustain, -, -, haRate, hdRate, hrRate⟩ := hcopies
  exact envNext_sound he (hsustain ▸ hx) (haRate ▸ envRate_isRate ha hfs) (hdRate ▸ envRate_isRate hd hfs)
    (hrRate ▸ envRate_isRate hr hfs)

/-- The frequency a voice gives its oscillators (R251, R252). -/
theorem voiceFreq_not_isNaN (n : Nat) {v : Voice} (hsound : VoiceSound v) (hpitch : InUnit v.lfoToPitch) :
    (v.baseFreq.mul (pitchMod binary32 v (naiveShape hw n v.lfo.kind v.lfo.phase))).isNaN = false := by
  obtain ⟨-, -, -, -, -, -, hsin, -, -, -, -, -, hdraw⟩ := machineFunctionsHaveTheNamedProperties
  obtain ⟨-, -, -, hlfo, -, -, -, -, hbase⟩ := hsound
  have hl : IsBipolar (naiveShape hw n v.lfo.kind v.lfo.phase) := naiveShape_isBipolar rfl hlfo hsin hdraw n _
  exact mul_not_isNaN hbase ((pitchMod_inRange hl hpitch).isFinite (by decide))

theorem voiceSound_voiceProcess (n : Nat) {s : State} {v : Voice} (hdomain : InDomain s)
    (hcopies : VoiceCopies s.params s.sampleRate v) (hsound : VoiceSound v) : VoiceSound (voiceProcess hw n v).2.1 := by
  have hrate := hdomain.sampleRate
  have hval := hdomain.value
  obtain ⟨⟨-, -, -, hfs1⟩, ⟨-, -, -, hfs2⟩, ⟨-, -, hfsWt⟩, -, hampCopies, hfltCopies, ⟨hlfoRate, -, hfsLfo⟩, -, -, -, -,
    hpitch, -⟩ := hcopies
  have hfreq := voiceFreq_not_isNaN n hsound (hpitch ▸ hval .lfoToPitch)
  have hdt {fs : F} (hfs : fs = s.sampleRate) := clampFreq_div_inRange (hfs ▸ hrate) hfreq
  obtain ⟨hosc1, hosc2, hwt, hlfo, hamp, hflt, hvel, hbase⟩ := hsound
  exact ⟨advance_isPhase hosc1 (hdt hfs1), advance_isPhase hosc2 (hdt hfs2), advance_isPhase hwt (hdt hfsWt),
    advance_isPhase hlfo (lfoRate_div_inRange (hfsLfo ▸ hrate) (hlfoRate ▸ hval .lfoRate)),
    envNext_sound_of_copies hampCopies (hval .ampAttack) (hval .ampDecay) (hval .ampSustain) (hval .ampRelease) hrate hamp,
    envNext_sound_of_copies hfltCopies (hval .fenvAttack) (hval .fenvDecay) (hval .fenvSustain) (hval .fenvRelease) hrate hflt,
    hvel, hbase⟩

theorem frameVoice_engineInv (a : F × State) (i : Fin 16) (h : EngineInv a.2) : EngineInv (frameVoice hw a i).2 := by
  obtain ⟨-, heq⟩ | ⟨-, heq⟩ := frameVoice_cases hw a i
  · obtain ⟨hcopies, hsound⟩ := h.voice i
    rw [heq]
    exact engineInv_of_voices h.1 rfl rfl (forall_set (P := VoiceInv a.2) h.voice i
      ⟨voiceCopies_voiceProcess _ hcopies, voiceSound_voiceProcess _ h.1 hcopies hsound⟩)
  · rwa [heq]

theorem frame_engineInv (s : State) (h : EngineInv s) : EngineInv (frame hw s) := by
  have hsum := frameSum_keeps (P := EngineInv) hw frameVoice_engineInv s h
  exact hsum.congr ((frame_params hw s).trans (frameSum_params hw s).symm)
    ((frame_sampleRate hw s).trans (frameSum_sampleRate hw s).symm) (frame_voices hw s)

/-! ### Every command and every step -/

theorem effect_engineInv (i : Instr) (s : State) (h : EngineInv s) : EngineInv (effect hw i s) := by
  cases isCommand i with
  | nop => exact h
  | noteOn note vel => exact noteOn_engineInv note vel h
  | noteOff note => exact noteOff_engineInv note h
  | process k => exact processFrames_keeps (P := EngineInv) hw frame_engineInv k.toNat s h
  | bioHrv val =>
    exact withReal_keeps (P := EngineInv) (h.congr rfl rfl rfl) fun hval =>
      setParam_engineInv RealParam.fltCutoff.isRegister (bioCutoff_inRange hval) h
  | bioCoh val => exact setReal_engineInv RealParam.wtPos.isRegister RealParam.wtPos.bounds_le val h
  | setSampleRate val =>
    exact withReal_keeps (P := EngineInv) (h.congr rfl rfl rfl) fun hval =>
      putSampleRate_engineInv (clamp_inRange hval (by decide)) h
  | setCtrl b => exact h.congr rfl rfl rfl
  | clrStatus b =>
    cases b
    · exact h
    · exact h.congr rfl rfl rfl
  | real r val =>
    rw [r.effect_setter]
    exact setReal_engineInv r.isRegister r.bounds_le val h
  | wave r k =>
    rw [r.effect_setter]
    exact setParam_engineInv r.isRegister trivial h
  | table t => exact setParam_engineInv wtTable_isRegister trivial h
  | rd a =>
    obtain ⟨err, w, heq⟩ := rd_eq a s
    rw [show effect hw (.rd a) s = rd binary32 a s from rfl, heq]
    exact h.congr rfl rfl rfl

/-- Settles O58: every command keeps the invariant (`effect_engineInv`), and a rejection touches neither register nor voice. -/
theorem everyStepKeepsTheEngineInvariant : Obligations.EveryStepKeepsTheEngineInvariant := by
  intro s t h hstep
  rw [← eq_of_next ((step_eq s).symm.trans hstep)]
  exact stepIn_keeps (P := EngineInv) (fun _ _ h => h.congr rfl rfl rfl) effect_engineInv
    (fun r s h => h.congr (reject_params r s) (reject_sampleRate r s) (reject_voices r s)) h

end Machine
end Sys2Proof
end

section
/-! The register address map (20_memory.md R88), words and streams as bytes (R85), the linear ROM address (R82), and one step of
the machine (R90). -/

namespace Sys2Proof

namespace Machine

/-! ### The register address map (R88) -/

theorem mapped_iff (a : BitVec 8) : mapped a = true ↔ accessOf a ≠ .unmapped := bne_iff_ne

/-- The access column of R88; what it does not list is unmapped. -/
theorem accessOf_iff (a : BitVec 8) :
    (accessOf a = .writeOnly ↔ a.toNat ≤ 0x04) ∧
    (accessOf a = .readWrite ↔ a.toNat = 0x08 ∨ a.toNat = 0x09 ∨ (0x10 ≤ a.toNat ∧ a.toNat ≤ 0x2A)) ∧
    (accessOf a = .readClear ↔ a.toNat = 0x0A) ∧
    (accessOf a = .readOnly ↔ a.toNat = 0x0B ∨ (0x40 ≤ a.toNat ∧ a.toNat ≤ 0x4F)) := by
  unfold accessOf
  split_ifs <;> simp only [true_iff, false_iff] <;> omega

/-- The addresses that R114 gives no write command are rejected (R115 (d)). -/
theorem decodeWrite_badWrite (bits : Nat) {a : BitVec 8} (d : Word)
    (h : ¬ (a.toNat ≤ 0x04 ∨ (0x08 ≤ a.toNat ∧ a.toNat ≤ 0x0A) ∨ (0x10 ≤ a.toNat ∧ a.toNat ≤ 0x2A))) :
    decodeWrite bits a d = .error .badWrite := by
  unfold decodeWrite
  split
  case h_36 => rfl
  all_goals omega

/-- A word with the `OPC` of `RD` and no `RSV` reads the address it names (R120 (3)). -/
theorem decode_readWord (a : BitVec 8) (d : Word) :
    decode (wordOf 0x02#8 0#16 a d) = if mapped a then .ok (.rd a) else .error .badRead := by
  unfold decode decodeIn
  rw [rsvOf_wordOf, opcOf_wordOf, addrOf_wordOf]
  rfl

theorem unmapped_isRejected {a : BitVec 8} (d : Word) (h : accessOf a = .unmapped) :
    decode (wordOf 0x02#8 0#16 a d) = .error .badRead ∧ decode (writeWord a d) = .error .badWrite := by
  constructor
  · rw [decode_readWord, if_neg fun hm => (mapped_iff a).1 hm h]
  · rw [decode_writeWord]
    obtain ⟨hw, hrw, hrc, -⟩ := accessOf_iff a
    exact decodeWrite_badWrite _ d (by simp only [h, reduceCtorEq, false_iff] at hw hrw hrc; omega)

/-- Settles O7: the access column is `accessOf_iff`, and an unmapped address lies in no row that a read or a write accepts. -/
theorem registerAddressMap : Obligations.RegisterAddressMap := by
  refine ⟨fun a => ?_, by decide, fun _ d => unmapped_isRejected d⟩
  obtain ⟨hwrite, hreadWrite, hreadClear, hreadOnly⟩ := accessOf_iff a
  exact ⟨hwrite, hreadWrite, hreadClear, hreadOnly, mapped_iff a⟩

/-! ### Words as bytes (R85) -/

theorem bytesOfWord_get (w : CommandWord) {k : Nat} (h : k < 8) :
    (bytesOfWord w)[k]? = some (w.extractLsb' (8 * k) 8) := by
  interval_cases k <;> rfl

theorem bytesOfValue_get (d : Word) {k : Nat} (h : k < 4) :
    (bytesOfValue d)[k]? = some (d.extractLsb' (8 * k) 8) := by
  interval_cases k <;> rfl

/-- A slice with the byte below it is the slice one byte longer. -/
theorem slice_append_byte {w n : Nat} (x : BitVec w) (start : Nat) :
    x.extractLsb' (start + 8) n ++ x.extractLsb' start 8 = x.extractLsb' start (n + 8) :=
  BitVec.extractLsb'_append_extractLsb'_eq_extractLsb' rfl

theorem wordOfBytes_bytesOfWord (w : CommandWord) (rest : List Byte) :
    wordOfBytes (bytesOfWord w ++ rest) = some (w, rest) := by
  unfold bytesOfWord
  simp only [List.cons_append, List.nil_append, wordOfBytes]
  rw [slice_append_byte w 48, slice_append_byte w 40, slice_append_byte w 32, slice_append_byte w 24, slice_append_byte w 16,
    slice_append_byte w 8, slice_append_byte w 0, BitVec.extractLsb'_eq_self]

theorem valueOfBytes_bytesOfValue (d : Word) (rest : List Byte) :
    valueOfBytes (bytesOfValue d ++ rest) = some (d, rest) := by
  unfold bytesOfValue
  simp only [List.cons_append, List.nil_append, valueOfBytes]
  rw [slice_append_byte d 16, slice_append_byte d 8, slice_append_byte d 0, BitVec.extractLsb'_eq_self]

/-- `L` precedes `R`. -/
theorem bytesOfFrame_get (fr : F × F) {k : Nat} (h : k < 4) :
    (bytesOfFrame fr)[k]? = some (fr.1.bits.extractLsb' (8 * k) 8) ∧
    (bytesOfFrame fr)[k + 4]? = some (fr.2.bits.extractLsb' (8 * k) 8) := by
  unfold bytesOfFrame
  constructor
  · rw [List.getElem?_append_left h, bytesOfValue_get _ h]
  · rw [List.getElem?_append_right (Nat.le_add_left 4 k)]
    exact bytesOfValue_get _ h

/-! ### The linear ROM address (R82) -/

theorem romLinear_fields {t f n : Nat} (hf : f < 256) (hn : n < 2048) :
    romLinear t f n / 2 ^ 19 = t ∧ romLinear t f n / 2 ^ 11 % 2 ^ 8 = f ∧ romLinear t f n % 2 ^ 11 = n := by
  unfold romLinear Config.nFrames Config.nSamples
  omega

/-- Settles O8: neighbouring slices of a word join to one slice, so the bytes read back to it. -/
theorem bytesAreLittleEndian : Obligations.BytesAreLittleEndian :=
  ⟨fun w rest => ⟨fun _ => bytesOfWord_get w, wordOfBytes_bytesOfWord w rest⟩,
    fun d rest => ⟨rfl, fun _ => bytesOfValue_get d, valueOfBytes_bytesOfValue d rest⟩,
    rfl, rfl, fun _ _ => List.flatMap_cons, fun _ _ => List.flatMap_cons, fun _ => rfl, fun fr _ => bytesOfFrame_get fr,
    fun _ _ _ _ => romLinear_fields⟩

/-! ### One step (R90, R120, R352) -/

theorem runWord_of_ok {w : CommandWord} {i : Instr} (h : decode w = .ok i) (s : State) : runWord w s = exec i s := by
  simp only [runWord, h]

theorem runWord_of_error {w : CommandWord} {r : Reject} (h : decode w = .error r) (s : State) :
    runWord w s = .next (reject r s) := by
  simp only [runWord, h]

/-- Settles O9: a step with a word at the head of the port is that word run (`step_cons`). -/
theorem stepRunsTheDecodedCommand : Obligations.StepRunsTheDecodedCommand :=
  ⟨fun s w rest _ hport hdecode => (step_cons s w rest hport).trans (runWord_of_ok hdecode _),
    fun s w rest _ hport hdecode => (step_cons s w rest hport).trans (runWord_of_error hdecode _), step_nil⟩

end Machine
end Sys2Proof
end

section
/-! The encoding (30_encoding.md R110 to R120): the 35 write commands as one table, which words are accepted, and what the opcode
table of R114 says of them. -/

namespace Sys2Proof

namespace Machine

/-! ### Words by their fields (R110) -/

theorem wordOf_fields (w : CommandWord) : wordOf (opcOf w) (rsvOf w) (addrOf w) (dataOf w) = w := by
  unfold wordOf opcOf rsvOf addrOf dataOf
  rw [BitVec.extractLsb'_append_extractLsb'_eq_extractLsb' (show 56 = 40 + 16 from rfl),
    BitVec.extractLsb'_append_extractLsb'_eq_extractLsb' (show 40 = 32 + 8 from rfl),
    BitVec.extractLsb'_append_extractLsb'_eq_extractLsb' (show 32 = 0 + 32 from rfl), BitVec.extractLsb'_eq_self]

theorem wordOf_inj {o o' : BitVec 8} {r r' : BitVec 16} {a a' : BitVec 8} {d d' : Word} :
    wordOf o r a d = wordOf o' r' a' d' ↔ o = o' ∧ r = r' ∧ a = a' ∧ d = d' := by
  refine ⟨fun h => ?_, by rintro ⟨rfl, rfl, rfl, rfl⟩; rfl⟩
  have hopc := congrArg opcOf h
  have hrsv := congrArg rsvOf h
  have haddr := congrArg addrOf h
  have hdata := congrArg dataOf h
  simp only [opcOf_wordOf, rsvOf_wordOf, addrOf_wordOf, dataOf_wordOf] at hopc hrsv haddr hdata
  exact ⟨hopc, hrsv, haddr, hdata⟩

theorem and_wordOf (w : CommandWord) (o : BitVec 8) (r : BitVec 16) (a : BitVec 8) (d : Word) :
    w &&& wordOf o r a d = wordOf (opcOf w &&& o) (rsvOf w &&& r) (addrOf w &&& a) (dataOf w &&& d) := by
  conv_lhs => rw [← wordOf_fields w]
  unfold wordOf
  rw [BitVec.and_append, BitVec.and_append, BitVec.and_append]

theorem eq_wordOf {w : CommandWord} {o : BitVec 8} (hopc : opcOf w = o) (hrsv : rsvOf w = 0#16) :
    w = wordOf o 0#16 (addrOf w) (dataOf w) := by
  rw [← hopc, ← hrsv, wordOf_fields]

/-- Below `OPC` lie the 56 bits that `NOP` wants zero (R115 (c)). -/
theorem eq_zero_of_payload {w : CommandWord} (hopc : opcOf w = 0#8) (hpayload : w.extractLsb' 0 56 = 0#56) : w = 0#64 := by
  have hw : opcOf w ++ w.extractLsb' 0 56 = w :=
    (BitVec.extractLsb'_append_extractLsb'_eq_extractLsb' (show 56 = 0 + 56 from rfl)).trans BitVec.extractLsb'_eq_self
  rw [← hw, hopc, hpayload]
  rfl

section
variable (a : BitVec 8) (d : Word)

@[simp] theorem opcOf_writeWord : opcOf (writeWord a d) = 0x01#8 := opcOf_wordOf _ _ a d
@[simp] theorem rsvOf_writeWord : rsvOf (writeWord a d) = 0#16 := rsvOf_wordOf _ _ a d
@[simp] theorem addrOf_writeWord : addrOf (writeWord a d) = a := addrOf_wordOf _ _ a d
@[simp] theorem dataOf_writeWord : dataOf (writeWord a d) = d := dataOf_wordOf _ _ a d

/-- A write word reaches step (4) of R120, whatever the width of the frame count. -/
theorem decodeIn_writeWord (bits : Nat) : decodeIn bits (writeWord a d) = decodeWrite bits a d := by
  unfold decodeIn
  rw [rsvOf_writeWord, opcOf_writeWord, addrOf_writeWord, dataOf_writeWord]
  rfl

/-- A read word reaches step (3) of R120. -/
theorem decodeIn_readWord (bits : Nat) :
    decodeIn bits (wordOf 0x02#8 0#16 a d) = if mapped a then .ok (.rd a) else .error .badRead := by
  unfold decodeIn
  rw [rsvOf_wordOf, opcOf_wordOf, addrOf_wordOf]
  rfl

end

/-! ### The write commands (R111, R114) -/

/-- The 35 write commands, those of the parameter registers taken together. -/
inductive WriteCommand where
  | noteOn | noteOff | process | bioHrv | bioCoh | sampleRate | ctrl | status | wtTable
  | wave (r : WaveParam)
  | real (r : RealParam)

namespace WriteCommand

def address : WriteCommand → BitVec 8
  | noteOn => 0x00#8
  | noteOff => 0x01#8
  | process => 0x02#8
  | bioHrv => 0x03#8
  | bioCoh => 0x04#8
  | sampleRate => 0x08#8
  | ctrl => 0x09#8
  | status => 0x0A#8
  | wtTable => 0x18#8
  | wave r => r.address
  | real r => r.address

def format : WriteCommand → Format
  | noteOn => .N
  | noteOff => .O
  | process => .C
  | ctrl | status => .B
  | wtTable | wave _ => .K
  | bioHrv | bioCoh | sampleRate | real _ => .F

/-- The command with its operands cut from `d`, `bits` being `FRAMECOUNT_BITS`. -/
def command (bits : Nat) (d : Word) : WriteCommand → Instr
  | noteOn => .noteOn (Operand.note d) (Operand.vel d)
  | noteOff => .noteOff (Operand.note d)
  | process => .process (Operand.count bits d)
  | bioHrv => .bioHrv (Operand.real d)
  | bioCoh => .bioCoh (Operand.real d)
  | sampleRate => .setSampleRate (Operand.real d)
  | ctrl => .setCtrl (Operand.bit0 d)
  | status => .clrStatus (Operand.bit0 d)
  | wtTable => .setWtTable (Operand.low3 d)
  | wave r => r.setter (Operand.kind d)
  | real r => r.setter (Operand.real d)

def mnemonic (c : WriteCommand) : String := (c.command 0 0#32).mnemonic

/-- `d` is no NaN pattern under a command that takes a number (R115 (f)). -/
def Accepts (c : WriteCommand) (d : Word) : Prop := c.format = .F → (F.mk d).isNaN = false

/-- The command's row of the opcode table. -/
def row (c : WriteCommand) : OpcodeRow := ⟨c.mnemonic, c.format, writeWord c.address 0#32, wordOf 0xFF#8 0xFFFF#16 0xFF#8 0#32⟩

/-- All of them, in the order of the opcode table. -/
def all : List WriteCommand :=
  [noteOn, noteOff, process, bioHrv, bioCoh, sampleRate, ctrl, status, wave .osc1Wave, wave .osc2Wave,
    real .osc1Detune, real .osc2Detune, real .osc1Pw, real .osc2Pw, real .oscMix, real .wtMix, wtTable,
    real .wtPos, real .fltCutoff, real .fltRes, real .fltEnvAmt, real .fltDrive,
    real .ampAttack, real .ampDecay, real .ampSustain, real .ampRelease,
    real .fenvAttack, real .fenvDecay, real .fenvSustain, real .fenvRelease,
    real .lfoRate, wave .lfoWave, real .lfoToFilter, real .lfoToPitch, real .masterVol]

theorem mem_all (c : WriteCommand) : c ∈ all := by
  cases c with
  | wave r => cases r <;> simp [all]
  | real r => cases r <;> simp [all]
  | _ => simp [all]

@[simp] theorem mnemonic_command (c : WriteCommand) (bits : Nat) (d : Word) : (c.command bits d).mnemonic = c.mnemonic := by
  cases c with
  | wave r => cases r <;> rfl
  | real r => cases r <;> rfl
  | _ => rfl

/-- The canonical word of a write command is a write to its address (R118). -/
theorem encode_command (c : WriteCommand) (bits : Nat) (d : Word) :
    ∃ d', encode (c.command bits d) = writeWord c.address d' := by
  cases c with
  | wave r => cases r <;> exact ⟨_, rfl⟩
  | real r => cases r <;> exact ⟨_, rfl⟩
  | _ => exact ⟨_, rfl⟩

/-- An `F`-format command keeps all 32 bits of `DATA`. -/
theorem encode_command_of_real {c : WriteCommand} (h : c.format = .F) (bits : Nat) (d : Word) :
    encode (c.command bits d) = writeWord c.address d := by
  cases c with
  | bioHrv | bioCoh | sampleRate => rfl
  | real r => cases r <;> rfl
  | _ => cases h

/-- Decoding a write of a command that takes no number never fails. -/
theorem decodeWrite_of_ne_real {c : WriteCommand} (h : c.format ≠ .F) (bits : Nat) (d : Word) :
    decodeWrite bits c.address d = .ok (c.command bits d) := by
  cases c with
  | bioHrv | bioCoh | sampleRate | real => exact absurd rfl h
  | wave r => cases r <;> rfl
  | _ => rfl

theorem decodeWrite_of_real {c : WriteCommand} (h : c.format = .F) (bits : Nat) (d : Word) :
    decodeWrite bits c.address d = if (F.mk d).isNaN then .error .nanOperand else .ok (c.command bits d) := by
  cases c with
  | bioHrv | bioCoh | sampleRate => rfl
  | real r => cases r <;> rfl
  | _ => cases h

theorem decodeWrite_of_accepts {c : WriteCommand} {d : Word} (h : c.Accepts d) (bits : Nat) :
    decodeWrite bits c.address d = .ok (c.command bits d) := by
  by_cases hF : c.format = .F
  · rw [decodeWrite_of_real hF, h hF]
    rfl
  · exact decodeWrite_of_ne_real hF bits d

theorem decodeWrite_of_not_accepts {c : WriteCommand} {d : Word} (h : ¬ c.Accepts d) (bits : Nat) :
    c.format = .F ∧ (F.mk d).isNaN = true ∧ decodeWrite bits c.address d = .error .nanOperand := by
  rw [Accepts, Classical.not_imp, Bool.not_eq_false] at h
  obtain ⟨hF, hnan⟩ := h
  exact ⟨hF, hnan, by rw [decodeWrite_of_real hF, if_pos hnan]⟩

/-- The addresses of the write commands (R88). -/
theorem exists_address_iff (a : BitVec 8) :
    (∃ c : WriteCommand, c.address = a) ↔
      (a.toNat ≤ 0x04 ∨ (0x08 ≤ a.toNat ∧ a.toNat ≤ 0x0A) ∨ (0x10 ≤ a.toNat ∧ a.toNat ≤ 0x2A)) := by
  constructor
  · rintro ⟨c, rfl⟩
    have hall : ∀ c ∈ all, c.address.toNat ≤ 0x04 ∨ (0x08 ≤ c.address.toNat ∧ c.address.toNat ≤ 0x0A) ∨
        (0x10 ≤ c.address.toNat ∧ c.address.toNat ≤ 0x2A) := by decide
    exact hall c (mem_all c)
  · have hall : ∀ a : BitVec 8, (a.toNat ≤ 0x04 ∨ (0x08 ≤ a.toNat ∧ a.toNat ≤ 0x0A) ∨
        (0x10 ≤ a.toNat ∧ a.toNat ≤ 0x2A)) → ∃ c ∈ all, c.address = a := by decide
    intro h
    obtain ⟨c, -, hc⟩ := hall a h
    exact ⟨c, hc⟩

/-- What a write can decode to: the command of its address, a rejected NaN, or no command. -/
theorem decodeWrite_cases (bits : Nat) (a : BitVec 8) (d : Word) :
    (∃ c : WriteCommand, c.address = a ∧ c.Accepts d ∧ decodeWrite bits a d = .ok (c.command bits d)) ∨
    decodeWrite bits a d = .error .nanOperand ∨ decodeWrite bits a d = .error .badWrite := by
  by_cases ha : ∃ c : WriteCommand, c.address = a
  · obtain ⟨c, rfl⟩ := ha
    by_cases hc : c.Accepts d
    · exact .inl ⟨c, rfl, hc, decodeWrite_of_accepts hc bits⟩
    · obtain ⟨-, -, hnan⟩ := decodeWrite_of_not_accepts hc bits
      exact .inr (.inl hnan)
  · exact .inr (.inr (decodeWrite_badWrite bits d fun hrange => ha ((exists_address_iff a).2 hrange)))

end WriteCommand

/-! ### The opcode table (R114) -/

def nopRow : OpcodeRow := ⟨"NOP", .Z, 0#64, 0xFFFFFFFFFFFFFFFF#64⟩
def rdRow : OpcodeRow := ⟨"RD", .R, wordOf 0x02#8 0#16 0#8 0#32, wordOf 0xFF#8 0xFFFF#16 0#8 0#32⟩

theorem opcodeRows_eq : opcodeRows = nopRow :: (WriteCommand.all.map WriteCommand.row ++ [rdRow]) := rfl

theorem mem_opcodeRows_iff (r : OpcodeRow) : r ∈ opcodeRows ↔ r = nopRow ∨ (∃ c : WriteCommand, c.row = r) ∨ r = rdRow := by
  simp [opcodeRows_eq, WriteCommand.mem_all]

/-- Two rows that select one word agree where both masks are set; no two rows of the table do. -/
theorem opcodeRows_disjoint {r r' : OpcodeRow} (hr : r ∈ opcodeRows) (hr' : r' ∈ opcodeRows) {w : CommandWord}
    (h : r.selects w = true) (h' : r'.selects w = true) : r = r' := by
  have hmatch : w &&& r.mask = r.matchWord := eq_of_beq h
  have hmatch' : w &&& r'.mask = r'.matchWord := eq_of_beq h'
  have hboth : r.matchWord &&& r'.mask = r'.matchWord &&& r.mask := by
    rw [← hmatch, ← hmatch', BitVec.and_assoc, BitVec.and_assoc, BitVec.and_comm r.mask]
  have hall : ∀ r ∈ opcodeRows, ∀ r' ∈ opcodeRows, r.matchWord &&& r'.mask = r'.matchWord &&& r.mask → r = r' := by
    decide +kernel
  exact hall r hr r' hr' hboth

theorem opcodeRows_mnemonics_nodup : (opcodeRows.map OpcodeRow.mnemonic).Nodup := by decide +kernel

section
variable (w : CommandWord)

theorem nopRow_selects_iff : nopRow.selects w = true ↔ w = 0#64 := by
  show (w &&& BitVec.allOnes 64 == 0#64) = true ↔ _
  rw [BitVec.and_allOnes, beq_iff_eq]

/-- Under the mask of a write row `OPC`, `RSV` and `ADDR` remain. -/
theorem WriteCommand.row_selects_iff (c : WriteCommand) :
    c.row.selects w = true ↔ opcOf w = 0x01#8 ∧ rsvOf w = 0#16 ∧ addrOf w = c.address := by
  show (w &&& wordOf (BitVec.allOnes 8) (BitVec.allOnes 16) (BitVec.allOnes 8) 0#32 == writeWord c.address 0#32) = true ↔ _
  rw [beq_iff_eq, and_wordOf, writeWord, wordOf_inj]
  simp only [BitVec.and_allOnes, BitVec.and_zero, and_true]

/-- Under the mask of `RD` only `OPC` and `RSV` remain. -/
theorem rdRow_selects_iff : rdRow.selects w = true ↔ opcOf w = 0x02#8 ∧ rsvOf w = 0#16 := by
  show (w &&& wordOf (BitVec.allOnes 8) (BitVec.allOnes 16) 0#8 0#32 == wordOf 0x02#8 0#16 0#8 0#32) = true ↔ _
  rw [beq_iff_eq, and_wordOf, wordOf_inj]
  simp only [BitVec.and_allOnes, BitVec.and_zero, and_true]

end

/-! ### Which words are accepted (R115, R120) -/

/-- The accepted words and their commands. -/
inductive Accepted (bits : Nat) : CommandWord → Instr → Prop where
  | nop : Accepted bits 0#64 .nop
  | rd {a : BitVec 8} (h : mapped a = true) (d : Word) : Accepted bits (wordOf 0x02#8 0#16 a d) (.rd a)
  | write {c : WriteCommand} {d : Word} (h : c.Accepts d) : Accepted bits (writeWord c.address d) (c.command bits d)

theorem Accepted.decodeIn_eq {bits : Nat} {w : CommandWord} {i : Instr} (h : Accepted bits w i) : decodeIn bits w = .ok i := by
  cases h with
  | nop => rfl
  | rd h d => rw [decodeIn_readWord, if_pos h]
  | write h => rw [decodeIn_writeWord, WriteCommand.decodeWrite_of_accepts h]

theorem accepted_of_decodeIn {bits : Nat} {w : CommandWord} {i : Instr} (h : decodeIn bits w = .ok i) : Accepted bits w i := by
  unfold decodeIn at h
  split_ifs at h with hrsv hopc hnop hzero hrd hmapped
  · cases h
    rw [eq_zero_of_payload hnop hzero]
    exact .nop
  · cases h
    rw [eq_wordOf hrd (not_not.1 hrsv), addrOf_wordOf]
    exact .rd hmapped _
  · have hwrite : opcOf w = 0x01#8 := by bv_omega
    obtain ⟨c, haddr, hc, hok⟩ | hnan | hbad := WriteCommand.decodeWrite_cases bits (addrOf w) (dataOf w)
    · cases h.symm.trans hok
      rw [eq_wordOf hwrite (not_not.1 hrsv), ← haddr, dataOf_wordOf]
      exact .write hc
    · cases h.symm.trans hnan
    · cases h.symm.trans hbad

/-! ### Encoding (R118) -/

theorem ofCode_code (k : WaveformKind) : WaveformKind.ofCode k.code = k := by cases k <;> rfl

theorem note_dataN (note vel : BitVec 7) : Operand.note (dataN note vel) = note := BitVec.extractLsb'_append_eq_right

theorem vel_dataN (note vel : BitVec 7) : Operand.vel (dataN note vel) = vel := by
  unfold Operand.vel dataN
  rw [BitVec.extractLsb'_append_eq_of_le (by decide), BitVec.extractLsb'_append_eq_of_le (by decide)]
  exact BitVec.extractLsb'_append_eq_right

theorem note_dataO (note : BitVec 7) : Operand.note (dataO note) = note := BitVec.extractLsb'_append_eq_right

theorem low3_dataK (k : BitVec 3) : Operand.low3 (dataK k) = k := BitVec.extractLsb'_append_eq_right

theorem kind_dataK (k : WaveformKind) : Operand.kind (dataK k.code) = k := by
  rw [Operand.kind, low3_dataK, ofCode_code]

theorem bit0_dataB (b : Bool) : Operand.bit0 (dataB b) = b := by cases b <;> rfl

section
variable {bits : Nat}

theorem count_lt (d : Word) : (Operand.count bits d).toNat < 2 ^ bits := by
  rw [Operand.count, BitVec.toNat_ofNat]
  exact (Nat.mod_le _ _).trans_lt (Nat.mod_lt _ (Nat.two_pow_pos bits))

theorem count_of_lt {count : BitVec 32} (h : count.toNat < 2 ^ bits) : Operand.count bits count = count := by
  rw [Operand.count, Nat.mod_eq_of_lt h, BitVec.ofNat_toNat, BitVec.setWidth_eq]

/-- A write command is well-formed exactly if it is not rejected for a NaN. -/
theorem WriteCommand.wfIn_command (c : WriteCommand) (d : Word) : (c.command bits d).wfIn bits = true ↔ c.Accepts d := by
  cases c with
  | process => simpa [command, Instr.wfIn, Accepts, format] using count_lt d
  | bioHrv | bioCoh | sampleRate => simp [command, Instr.wfIn, Accepts, format, Operand.real]
  | real r => cases r <;> simp [command, RealParam.setter, Instr.wfIn, Accepts, format, Operand.real]
  | wave r => cases r <;> simp [command, WaveParam.setter, Instr.wfIn, Accepts, format]
  | noteOn | noteOff | ctrl | status | wtTable => simp [command, Instr.wfIn, Accepts, format]

theorem Accepted.wfIn {w : CommandWord} {i : Instr} (h : Accepted bits w i) : i.wfIn bits = true := by
  cases h with
  | nop => rfl
  | rd h d => exact h
  | write h => exact (WriteCommand.wfIn_command _ _).2 h

theorem accepted_of_command {i : Instr} (hwf : i.wfIn bits = true) (c : WriteCommand) (d : Word) (hi : c.command bits d = i)
    (hword : encode i = writeWord c.address d) : Accepted bits (encode i) i := by
  subst hi
  rw [hword]
  exact .write ((c.wfIn_command d).1 hwf)

/-- The canonical word of a well-formed command carries it. -/
theorem accepted_encode {i : Instr} (h : i.wfIn bits = true) : Accepted bits (encode i) i := by
  cases isCommand i with
  | nop => exact .nop
  | rd a => exact .rd h 0#32
  | noteOn note vel =>
    exact accepted_of_command h .noteOn (dataN note vel) (congrArg₂ _ (note_dataN note vel) (vel_dataN note vel)) rfl
  | noteOff note => exact accepted_of_command h .noteOff (dataO note) (congrArg _ (note_dataO note)) rfl
  | process count => exact accepted_of_command h .process count (congrArg _ (count_of_lt (of_decide_eq_true h))) rfl
  | bioHrv val => exact accepted_of_command h .bioHrv val.bits rfl rfl
  | bioCoh val => exact accepted_of_command h .bioCoh val.bits rfl rfl
  | setSampleRate val => exact accepted_of_command h .sampleRate val.bits rfl rfl
  | setCtrl b => exact accepted_of_command h .ctrl (dataB b) (congrArg _ (bit0_dataB b)) rfl
  | clrStatus b => exact accepted_of_command h .status (dataB b) (congrArg _ (bit0_dataB b)) rfl
  | real r val => exact accepted_of_command h (.real r) val.bits rfl (by cases r <;> rfl)
  | wave r k => exact accepted_of_command h (.wave r) (dataK k.code) (congrArg r.setter (kind_dataK k)) (by cases r <;> rfl)
  | table t => exact accepted_of_command h .wtTable (dataK t) (congrArg _ (low3_dataK t)) rfl

end

/-- Settles O2: the canonical word of a well-formed command is an accepted word of it (`accepted_encode`), for every width. -/
theorem decodeOfEncodeIsTheCommand : Obligations.DecodeOfEncodeIsTheCommand :=
  ⟨fun _ h => (accepted_encode h).decodeIn_eq, fun _ _ h => (accepted_of_decodeIn h).wfIn,
    fun _ _ => ⟨fun _ h => (accepted_encode h).decodeIn_eq, fun _ _ h => (accepted_of_decodeIn h).wfIn⟩⟩

/-! ### The mnemonic and the pair `(OPC, ADDR)` (R110) -/

/-- An accepted word is selected by the row of its command's mnemonic. -/
theorem Accepted.row {bits : Nat} {w : CommandWord} {i : Instr} (h : Accepted bits w i) :
    ∃ r ∈ opcodeRows, r.mnemonic = i.mnemonic ∧ r.selects w = true := by
  cases h with
  | nop => exact ⟨nopRow, (mem_opcodeRows_iff _).2 (.inl rfl), rfl, rfl⟩
  | rd h d =>
    exact ⟨rdRow, (mem_opcodeRows_iff _).2 (.inr (.inr rfl)), rfl,
      (rdRow_selects_iff _).2 ⟨opcOf_wordOf _ _ _ _, rsvOf_wordOf _ _ _ _⟩⟩
  | @write c d h =>
    exact ⟨c.row, (mem_opcodeRows_iff _).2 (.inr (.inl ⟨c, rfl⟩)), (c.mnemonic_command bits d).symm,
      (c.row_selects_iff _).2 ⟨opcOf_writeWord _ d, rsvOf_writeWord _ d, addrOf_writeWord _ d⟩⟩

section
variable {bits : Nat} {w w' : CommandWord} {i i' : Instr}

/-- Of the table's rows exactly that of its command's mnemonic selects an accepted word. -/
theorem Accepted.selects_iff (h : Accepted bits w i) {r : OpcodeRow} (hr : r ∈ opcodeRows) :
    r.selects w = true ↔ r.mnemonic = i.mnemonic := by
  obtain ⟨r', hr', hmnemonic, hselects⟩ := h.row
  refine ⟨fun hsel => ?_, fun hmn => ?_⟩
  · rw [opcodeRows_disjoint hr hr' hsel hselects, hmnemonic]
  · rwa [List.inj_on_of_nodup_map opcodeRows_mnemonics_nodup hr hr' (hmn.trans hmnemonic.symm)]

theorem Accepted.rsv (h : Accepted bits w i) : rsvOf w = 0#16 := by
  cases h with
  | nop => rfl
  | rd => exact rsvOf_wordOf _ _ _ _
  | write => exact rsvOf_writeWord _ _

theorem Accepted.eq_zero (h : Accepted bits w i) (hopc : opcOf w = 0x00#8) : w = 0#64 := by
  cases h with
  | nop => rfl
  | rd => rw [opcOf_wordOf] at hopc; cases hopc
  | write => rw [opcOf_writeWord] at hopc; cases hopc

/-- A row does not tell two accepted words with one pair `(OPC, ADDR)` apart. -/
theorem Accepted.selects_of_pair (h' : Accepted bits w' i') (hopc : opcOf w' = opcOf w) (haddr : addrOf w' = addrOf w)
    {r : OpcodeRow} (hr : r ∈ opcodeRows) (hsel : r.selects w = true) : r.selects w' = true := by
  obtain rfl | ⟨c, rfl⟩ | rfl := (mem_opcodeRows_iff r).1 hr
  · rw [nopRow_selects_iff] at hsel ⊢
    exact h'.eq_zero (by rw [hopc, hsel]; rfl)
  · rw [c.row_selects_iff] at hsel ⊢
    obtain ⟨hopc₀, -, haddr₀⟩ := hsel
    exact ⟨hopc.trans hopc₀, h'.rsv, haddr.trans haddr₀⟩
  · rw [rdRow_selects_iff] at hsel ⊢
    exact ⟨hopc.trans hsel.1, h'.rsv⟩

/-- All words a row selects have one pair `(OPC, ADDR)`, `RD` apart. -/
theorem pair_of_selects {r : OpcodeRow} (hr : r ∈ opcodeRows) (hne : r.mnemonic ≠ "RD") (hsel : r.selects w = true)
    (hsel' : r.selects w' = true) : opcOf w = opcOf w' ∧ addrOf w = addrOf w' := by
  obtain rfl | ⟨c, rfl⟩ | rfl := (mem_opcodeRows_iff r).1 hr
  · rw [nopRow_selects_iff] at hsel hsel'
    rw [hsel, hsel']
    exact ⟨rfl, rfl⟩
  · obtain ⟨hopc, -, haddr⟩ := (c.row_selects_iff _).1 hsel
    obtain ⟨hopc', -, haddr'⟩ := (c.row_selects_iff _).1 hsel'
    exact ⟨hopc.trans hopc'.symm, haddr.trans haddr'.symm⟩
  · exact absurd rfl hne

theorem Accepted.encode_fields (h : Accepted bits w i) :
    opcOf (encode i) = opcOf w ∧ addrOf (encode i) = addrOf w ∧ rsvOf (encode i) = 0#16 := by
  cases h with
  | nop => exact ⟨rfl, rfl, rfl⟩
  | rd => simp only [encode, opcOf_wordOf, addrOf_wordOf, rsvOf_wordOf, and_self]
  | @write c d =>
    obtain ⟨d', hword⟩ := c.encode_command bits d
    simp only [hword, opcOf_writeWord, addrOf_writeWord, rsvOf_writeWord, and_self]

end

/-- Settles O3: the pair fixes the row that selects an accepted word, and the row fixes the mnemonic. -/
theorem commandIsIdentifiedByOpcAndAddr : Obligations.CommandIsIdentifiedByOpcAndAddr := by
  refine ⟨fun w w' i i' h h' => ?_, fun _ _ h => (accepted_of_decodeIn h).encode_fields⟩
  have hacc' := accepted_of_decodeIn h'
  obtain ⟨r, hr, hmnemonic, hsel⟩ := (accepted_of_decodeIn h).row
  rw [← hmnemonic]
  exact ⟨fun hopc haddr => (hacc'.selects_iff hr).1 (hacc'.selects_of_pair hopc.symm haddr.symm hr hsel),
    fun hmn hne => pair_of_selects hr hne hsel ((hacc'.selects_iff hr).2 hmn)⟩

/-! ### Decoding a word that a row selects (R114, R115) -/

section
variable {w : CommandWord}

theorem WriteCommand.eq_of_row_selects {c : WriteCommand} (h : c.row.selects w = true) : w = writeWord c.address (dataOf w) := by
  obtain ⟨hopc, hrsv, haddr⟩ := (c.row_selects_iff w).1 h
  rw [← haddr]
  exact eq_wordOf hopc hrsv

theorem eq_of_rdRow_selects (h : rdRow.selects w = true) : w = wordOf 0x02#8 0#16 (addrOf w) (dataOf w) := by
  obtain ⟨hopc, hrsv⟩ := (rdRow_selects_iff w).1 h
  exact eq_wordOf hopc hrsv

/-- A selected word is accepted as the row's command or rejected for its NaN. -/
theorem WriteCommand.decode_of_row_selects {c : WriteCommand} (h : c.row.selects w = true) :
    (c.Accepts (dataOf w) ∧ decode w = .ok (c.command Config.frameCountBitsDefault (dataOf w))) ∨
    (c.format = .F ∧ (F.mk (dataOf w)).isNaN = true ∧ decode w = .error .nanOperand) := by
  have hdecode : decode w = decodeWrite Config.frameCountBitsDefault c.address (dataOf w) := by
    conv_lhs => rw [eq_of_row_selects h]
    exact decode_writeWord _ _
  rw [hdecode]
  by_cases hc : c.Accepts (dataOf w)
  · exact .inl ⟨hc, decodeWrite_of_accepts hc _⟩
  · exact .inr (decodeWrite_of_not_accepts hc _)

theorem decode_of_rdRow_selects (h : rdRow.selects w = true) :
    decode w = if mapped (addrOf w) then .ok (.rd (addrOf w)) else .error .badRead := by
  conv_lhs => rw [eq_of_rdRow_selects h]
  exact decode_readWord _ _

theorem decode_of_selects {r : OpcodeRow} (hr : r ∈ opcodeRows) (h : r.selects w = true) :
    (∃ i, decode w = .ok i ∧ i.mnemonic = r.mnemonic) ∨
    (r.format = .F ∧ (F.mk (dataOf w)).isNaN = true ∧ decode w = .error .nanOperand) ∨
    (r.format = .R ∧ mapped (addrOf w) = false ∧ decode w = .error .badRead) := by
  obtain rfl | ⟨c, rfl⟩ | rfl := (mem_opcodeRows_iff r).1 hr
  · rw [(nopRow_selects_iff w).1 h]
    exact .inl ⟨.nop, rfl, rfl⟩
  · obtain ⟨-, hok⟩ | hnan := WriteCommand.decode_of_row_selects h
    · exact .inl ⟨_, hok, c.mnemonic_command _ _⟩
    · exact .inr (.inl hnan)
  · rw [decode_of_rdRow_selects h]
    cases hm : mapped (addrOf w)
    · exact .inr (.inr ⟨rfl, rfl, rfl⟩)
    · exact .inl ⟨_, rfl, rfl⟩

end

/-- Settles O4: two rows that select one word agree under both masks (`opcodeRows_disjoint`), and each row's words decode to
its command (`decode_of_selects`). -/
theorem decodeFollowsTheOpcodeTable : Obligations.DecodeFollowsTheOpcodeTable :=
  ⟨rfl, fun _ hr _ hr' _ => opcodeRows_disjoint hr hr', fun _ _ h => (accepted_of_decodeIn h).row,
    fun _ hr _ => decode_of_selects hr⟩

/-! ### Operands (R111) -/

/-- The rows of format `F` are write commands that take a number. -/
theorem exists_command_of_realRow {r : OpcodeRow} (hr : r ∈ opcodeRows) (hF : r.format = .F) :
    ∃ c : WriteCommand, c.row = r ∧ c.format = .F := by
  obtain rfl | ⟨c, rfl⟩ | rfl := (mem_opcodeRows_iff r).1 hr
  · cases hF
  · exact ⟨c, rfl, hF⟩
  · cases hF

/-- The default count is bits 15:0 (R112). -/
theorem count_default (d : Word) : Operand.count Config.frameCountBitsDefault d = (d.extractLsb' 0 16).setWidth 32 := by
  apply BitVec.eq_of_toNat_eq
  simp [Operand.count, Config.frameCountBitsDefault, BitVec.extractLsb'_toNat]

theorem decode_nop_iff {w : CommandWord} (hopc : opcOf w = 0x00#8) : decode w = .ok .nop ↔ w = 0#64 :=
  ⟨fun h => (accepted_of_decodeIn h).eq_zero hopc, fun h => h ▸ rfl⟩

theorem decode_of_realRow {r : OpcodeRow} (hr : r ∈ opcodeRows) (hF : r.format = .F) {w : CommandWord}
    (h : r.selects w = true) :
    if (F.mk (dataOf w)).isNaN then decode w = .error .nanOperand else ∃ i, decode w = .ok i ∧ encode i = w := by
  obtain ⟨c, rfl, hcF⟩ := exists_command_of_realRow hr hF
  obtain ⟨hacc, hok⟩ | ⟨-, hnan, herr⟩ := WriteCommand.decode_of_row_selects h
  · rw [if_neg (by simp [hacc hcF])]
    exact ⟨_, hok, (WriteCommand.encode_command_of_real hcF _ _).trans (WriteCommand.eq_of_row_selects h).symm⟩
  · rwa [if_pos hnan]

/-- Settles O5: a write word reaches its address's line of the decoder with `DATA` as it is (`decodeIn_writeWord`). -/
theorem operandsAreSlicesOfData : Obligations.OperandsAreSlicesOfData := by
  refine ⟨fun d => ?_, fun bits d => decodeIn_writeWord _ d bits, fun a d h => ?_, fun w => decode_nop_iff,
    fun r hr hF w => decode_of_realRow hr hF⟩
  · simp only [decode_writeWord, ← count_default]
    exact ⟨rfl, rfl, rfl, rfl, rfl, rfl, rfl, rfl, rfl⟩
  · rw [decode_readWord, if_pos h]

/-! ### Rejection (R115, R352) -/

section
variable {bits : Nat} {w : CommandWord} {i : Instr}

theorem Accepted.opc_lt (h : Accepted bits w i) : (opcOf w).toNat < 0x03 := by
  cases h with
  | nop => decide
  | rd => rw [opcOf_wordOf]; decide
  | write => rw [opcOf_writeWord]; decide

theorem Accepted.exists_address (h : Accepted bits w i) (hopc : opcOf w = 0x01#8) :
    ∃ c : WriteCommand, c.address = addrOf w := by
  cases h with
  | nop => cases hopc
  | rd => rw [opcOf_wordOf] at hopc; cases hopc
  | write => exact ⟨_, (addrOf_writeWord _ _).symm⟩

theorem Accepted.mapped_addr (h : Accepted bits w i) (hopc : opcOf w = 0x02#8) : mapped (addrOf w) = true := by
  cases h with
  | nop => cases hopc
  | rd h => rwa [addrOf_wordOf]
  | write => rw [opcOf_writeWord] at hopc; cases hopc

/-- A word with none of the six causes is accepted. -/
theorem exists_accepted_of_no_cause (hopc : (opcOf w).toNat < 0x03) (hrsv : rsvOf w = 0#16)
    (hnop : opcOf w = 0x00#8 → w.extractLsb' 0 56 = 0#56)
    (hwrite : opcOf w = 0x01#8 → ∃ c : WriteCommand, c.address = addrOf w)
    (hread : opcOf w = 0x02#8 → mapped (addrOf w) = true)
    (hreal : ∀ r ∈ opcodeRows, r.format = .F → r.selects w = true → (F.mk (dataOf w)).isNaN = false) :
    ∃ i, Accepted bits w i := by
  have hopcs : opcOf w = 0x00#8 ∨ opcOf w = 0x01#8 ∨ opcOf w = 0x02#8 := by bv_omega
  obtain h0 | h1 | h2 := hopcs
  · rw [eq_zero_of_payload h0 (hnop h0)]
    exact ⟨_, .nop⟩
  · obtain ⟨c, haddr⟩ := hwrite h1
    have hselects : c.row.selects w = true := (c.row_selects_iff w).2 ⟨h1, hrsv, haddr.symm⟩
    have hacc : c.Accepts (dataOf w) := fun hF => hreal c.row ((mem_opcodeRows_iff _).2 (.inr (.inl ⟨c, rfl⟩))) hF hselects
    rw [WriteCommand.eq_of_row_selects hselects]
    exact ⟨_, .write hacc⟩
  · rw [eq_wordOf h2 hrsv]
    exact ⟨_, .rd (hread h2) _⟩

theorem exists_error_iff : (∃ r, decode w = .error r) ↔ ∀ i, ¬ Accepted Config.frameCountBitsDefault w i := by
  constructor
  · rintro ⟨r, herr⟩ i hi
    cases herr.symm.trans hi.decodeIn_eq
  · intro hno
    cases h : decode w with
    | error r => exact ⟨r, rfl⟩
    | ok i => exact absurd (accepted_of_decodeIn h) (hno i)

theorem decodeWrite_ne_badRead (a : BitVec 8) (d : Word) : decodeWrite bits a d ≠ .error .badRead := by
  obtain ⟨c, -, -, h⟩ | h | h := WriteCommand.decodeWrite_cases bits a d <;> rw [h] <;> nofun

/-- A read is rejected as such exactly if its word has no `RSV` (R120 (3); log 9). -/
theorem error_eq_badRead_iff {r : Reject} (h : decodeIn bits w = .error r) :
    r = .badRead ↔ opcOf w = 0x02#8 ∧ rsvOf w = 0#16 := by
  unfold decodeIn at h
  split_ifs at h with hrsv hopc hnop hzero hrd hmapped
  · cases h
    exact iff_of_false nofun fun hread => hrsv hread.2
  · cases h
    exact iff_of_false nofun fun hread => absurd hopc (by rw [hread.1]; decide)
  · cases h
    exact iff_of_false nofun fun hread => absurd (hnop.symm.trans hread.1) (by decide)
  · cases h
    exact iff_of_true rfl ⟨hrd, not_not.1 hrsv⟩
  · refine iff_of_false ?_ fun hread => hrd hread.1
    rintro rfl
    exact decodeWrite_ne_badRead _ _ h

end

/-- A rejection as one record update. -/
theorem reject_eq_record (r : Reject) (s : State) :
    reject r s = { s with cmdErr := true, responses := if r = .badRead then s.responses ++ [0#32] else s.responses } := by
  cases r <;> rfl

/-- Settles O6: an accepted word has none of the six causes (`Accepted.opc_lt` and what follows it), and a word with none is
accepted (`exists_accepted_of_no_cause`). -/
theorem rejectedWordsHaveTheSixCauses : Obligations.RejectedWordsHaveTheSixCauses := by
  refine ⟨fun w => ⟨fun herr => ?_, fun hcause => ?_⟩, fun w r s h => ?_⟩
  · by_contra hcause
    simp only [not_or] at hcause
    obtain ⟨hopc, hrsv, hnop, hwrite, hread, hreal⟩ := hcause
    obtain ⟨i, hi⟩ : ∃ i, Accepted Config.frameCountBitsDefault w i :=
      exists_accepted_of_no_cause (not_le.1 hopc) (not_not.1 hrsv)
        (fun h => by_contra fun hpayload => hnop ⟨h, hpayload⟩)
        (fun h => (WriteCommand.exists_address_iff _).2 (by simp only [h, true_and] at hwrite; omega))
        (fun h => (mapped_iff _).2 fun hunmapped => hread ⟨h, hunmapped⟩)
        fun r hr hF hsel => Bool.eq_false_iff.2 fun hnan => hreal ⟨⟨r, hr, hF, hsel⟩, hnan⟩
    exact exists_error_iff.1 herr i hi
  · obtain hopc | hrsv | ⟨hopc, hpayload⟩ | ⟨hopc, haddr⟩ | ⟨hopc, hunmapped⟩ | ⟨⟨r, hr, hF, hsel⟩, hnan⟩ := hcause
    · exact exists_error_iff.2 fun i hi => absurd hi.opc_lt (not_lt.2 hopc)
    · exact exists_error_iff.2 fun i hi => hrsv hi.rsv
    · exact exists_error_iff.2 fun i hi => hpayload (by rw [hi.eq_zero hopc]; rfl)
    · have hnone : ¬ ∃ c : WriteCommand, c.address = addrOf w := by
        rw [WriteCommand.exists_address_iff]
        omega
      exact exists_error_iff.2 fun i hi => hnone (hi.exists_address hopc)
    · exact exists_error_iff.2 fun i hi => (mapped_iff _).1 (hi.mapped_addr hopc) hunmapped
    · have hreal := decode_of_realRow hr hF hsel
      rw [if_pos hnan] at hreal
      exact ⟨_, hreal⟩
  · rw [runWord_of_error h, reject_eq_record]
    simp only [error_eq_badRead_iff h]

/-- Settles O1: the decoder is evaluated at each example word. -/
theorem specExampleWordsDecode : Obligations.SpecExampleWordsDecode :=
  ⟨rfl, rfl, rfl, rfl, rfl, rfl, rfl, rfl, rfl, rfl, rfl, rfl, rfl, rfl, rfl, rfl, rfl, rfl, rfl⟩

end Machine
end Sys2Proof
end

section
/-! The phase and the oscillator's output (40_oscillator.md R142 to R158). The correction is `±(2x - x² - 1)` of a quotient `x`
of magnitude at most 1. It stays in [-1, 1] after rounding, because `2x` is exact and the square of `x` is rounded to no less
than `2|x| - 1` and to no more than `|x|`: both are binary32 numbers, or the first is negative. -/

namespace Sys2Proof

namespace F

/-- An integer that is a multiple of the last place it has is the value of a number. -/
theorem exists_scaled_eq {z : Int} (h : z.natAbs < overflowMag) (hdvd : 2 ^ lastPlace z.natAbs ∣ z.natAbs) :
    ∃ y : F, y.isNaN = false ∧ y.scaled = z := by
  refine ⟨ofRatio (decide (z < 0)) z.natAbs 1, ofRatio_not_isNaN .., ?_⟩
  rw [scaled_ofRatio, mag_ofRatio_of_dvd _ h hdvd]
  split_ifs with hz
  · have := of_decide_eq_true hz; omega
  · have : ¬ z < 0 := by simpa using hz
    omega

theorem scaled_mul_self (x : F) : x.scaled * x.scaled = x.mag * x.mag := by
  rw [← scaled_natAbs, Int.natAbs_mul_self']

section
variable {x : F} (hx : x.mag ≤ unit)
include hx

theorem isFinite_of_mag_le_unit : x.isFinite = true :=
  (mag_lt_inf_iff x).2 (hx.trans_lt (by decide +kernel))

/-- Doubling a number of magnitude at most 1 is exact. -/
theorem add_self_scaled : (x.add x).scaled = x.scaled + x.scaled := by
  have habs : (x.scaled + x.scaled).natAbs = 2 * x.mag := by have := scaled_natAbs x; omega
  have hdvd : 2 ^ lastPlace (2 * x.mag) ∣ 2 * x.mag := by
    rcases h : lastPlace (2 * x.mag) with _ | s
    · exact one_dvd _
    · have hlow := pow_le_of_lastPlace_pos (q := 2 * x.mag) (by omega)
      rw [h, show s + 1 + 23 = s + 23 + 1 by omega, pow_succ'] at hlow
      rw [pow_succ']
      rcases dvd_mag_or_lt s x with hs | ⟨-, hs⟩
      · exact Nat.mul_dvd_mul_left 2 hs
      · omega
  have hlt : 2 * x.mag < overflowMag := (Nat.mul_le_mul_left 2 hx).trans_lt (by decide +kernel)
  obtain ⟨y, hy, hval⟩ := exists_scaled_eq (habs ▸ hlt) (habs ▸ hdvd)
  have hfin := isFinite_of_mag_le_unit hx
  rw [← hval]
  exact le_antisymm (add_scaled_le hfin hfin y hy hval.ge) (le_add_scaled hfin hfin y hy hval.le)

theorem mul_self_scaled_nonneg : 0 ≤ (x.mul x).scaled := by
  have hfin := isFinite_of_mag_le_unit hx
  simpa only [scaled_zero] using le_mul_scaled hfin hfin zero (by decide) (by
    rw [scaled_zero, zero_mul]; exact mul_self_nonneg _)

theorem mul_self_scaled_le : (x.mul x).scaled ≤ x.mag := by
  have hfin := isFinite_of_mag_le_unit hx
  rw [← scaled_abs]
  refine mul_scaled_le hfin hfin x.abs ((isNaN_abs x).trans (isFinite_not_isNaN hfin)) ?_
  rw [scaled_abs, scaled_mul_self]
  exact_mod_cast Nat.mul_le_mul_left x.mag hx

/-- The square of a number of magnitude `m` at most 1 is rounded to no less than `2m - 1`, which is a number too where it is
positive. -/
theorem le_mul_self_scaled : 2 * (x.mag : Int) - unit ≤ (x.mul x).scaled := by
  have hfin := isFinite_of_mag_le_unit hx
  rcases dvd_mag_or_lt 125 x with hdvd | ⟨-, hlt⟩
  · have hdbl : 2 ^ 126 ∣ (2 * (x.mag : Int) - unit).natAbs := by
      obtain ⟨k, hk⟩ := hdvd
      refine Int.natCast_dvd.1 (Int.dvd_sub (Int.natCast_dvd_natCast.2 ⟨k, ?_⟩) (Int.natCast_dvd_natCast.2 ?_))
      · rw [hk, pow_succ']; ring
      · decide +kernel
    have hle : (2 * (x.mag : Int) - unit).natAbs ≤ unit := by omega
    have hplace : lastPlace (2 * (x.mag : Int) - unit).natAbs ≤ 126 := (lastPlace_mono hle).trans (by decide +kernel)
    obtain ⟨y, hy, hval⟩ :=
      exists_scaled_eq (hle.trans_lt (by decide +kernel)) ((pow_dvd_pow 2 hplace).trans hdbl)
    rw [← hval]
    refine le_mul_scaled hfin hfin y hy ?_
    rw [hval, scaled_mul_self]
    linarith [mul_self_nonneg ((x.mag : Int) - unit)]
  · have hhalf : unit = 2 * 2 ^ (125 + 23) := by decide +kernel
    have hnonneg := mul_self_scaled_nonneg hx
    omega

end
end F

namespace Machine

open F

/-- Settles O42: the sum of a phase and an increment is below 2, and each clamp keeps the increment at half a turn. -/
theorem phaseStaysInTheUnitInterval : Obligations.PhaseStaysInTheUnitInterval :=
  ⟨fun _ _ => advance_isPhase, fun _ _ => clampFreq_div_inRange, fun _ _ => lfoRate_div_inRange⟩

/-! ### The formulas in the default format (R147 to R157) -/

/-- The correction at the quotient of a phase below the increment. -/
def blepAfter (x : F) : F := ((x.add x).sub (x.mul x)).sub F.one

/-- The correction at the quotient of a phase within an increment of 1. -/
def blepBefore (x : F) : F := ((x.mul x).add (x.add x)).add F.one

section
variable (p dt : F)

theorem blep_eq : blep binary32 p dt =
    if p.lt dt then blepAfter (p.div dt)
    else if (F.one.sub dt).lt p then blepBefore ((p.sub F.one).div dt)
    else F.zero := rfl

theorem saw_eq : saw binary32 p dt = ((F.two.mul p).sub F.one).sub (blep binary32 p dt) := rfl

theorem pulse_eq (w : F) : pulse binary32 p dt w =
    ((if p.lt w then F.one else F.minusOne).add (blep binary32 p dt)).sub
      (blep binary32 (p.add (F.one.sub w)).wrap dt) := rfl

end

section
variable {c : Config} (hnum : c.num = binary32) (n : Nat) (p dt pw d : F)
include hnum

theorem shape_sine : shape c n .sine p dt pw d = c.fsin (Config.twoPi.mul p) := by simp [shape, sine, hnum]

theorem shape_triangle : shape c n .triangle p dt pw d = (F.four.mul (p.sub F.half).abs).sub F.one := by
  simp [shape, triangle, hnum]

theorem shape_sawtooth : shape c n .sawtooth p dt pw d = saw binary32 p dt := by simp [shape, hnum]

theorem shape_square : shape c n .square p dt pw d = pulse binary32 p dt F.half := by simp [shape, hnum]

theorem shape_pulse25 : shape c n .pulse25 p dt pw d = pulse binary32 p dt F.quarter := by simp [shape, hnum]

theorem shape_pwm : shape c n .pwm p dt pw d = pulse binary32 p dt pw := by simp [shape, hnum]

theorem superSawTerm_eq (k : Int) : superSawTerm c p dt d k =
    (saw binary32 (p.add ((itof k).mul (d.mul c.ssUnit))).frac dt).div F.seven := by simp [superSawTerm, hnum]

theorem superSaw_eq_foldl : superSaw c p dt d =
    superSawOffsets.foldl (fun acc k => acc.add (superSawTerm c p dt d k)) F.zero := by simp [superSaw, hnum]

/-- The seven sawtooths in order, summed from +0.0. -/
theorem shape_superSaw : shape c n .superSaw p dt pw d =
    let term := superSawTerm c p dt d
    ((((((F.zero.add (term (-3))).add (term (-2))).add (term (-1))).add (term 0)).add (term 1)).add (term 2)).add
      (term 3) := by
  simp [shape, superSaw_eq_foldl hnum, superSawOffsets]

end

theorem drawCount_eq (n : Nat) (k : WaveformKind) : n + drawsOf k = if k = .noise then n + 1 else n := by
  cases k <;> rfl

/-! ### The correction (R148) -/

theorem InRange.mono {lo hi lo' hi' x : F} (h : InRange lo hi x) (hlo : lo'.le lo = true) (hhi : hi.le hi' = true) :
    InRange lo' hi' x := by
  obtain ⟨hlo', -, hlos⟩ := le_iff.1 hlo
  obtain ⟨-, hhi', hhis⟩ := le_iff.1 hhi
  exact inRange_iff.2 ⟨hlo', hhi', h.isNaN, hlos.trans h.scaled.1, h.scaled.2.trans hhis⟩

theorem minusOne_scaled : F.minusOne.scaled = -F.one.scaled := by decide +kernel

theorem one_scaled : F.one.scaled = unit := by decide +kernel

theorem half_scaled : F.half.scaled * 2 = F.one.scaled := by decide +kernel

theorem IsBipolar.mag_le_unit {x : F} (h : IsBipolar x) : x.mag ≤ unit := by
  have hs := InRange.scaled h
  have hmag := scaled_natAbs x
  rw [minusOne_scaled, one_scaled] at hs
  omega

section
variable {x : F} (hx : IsBipolar x)
include hx

theorem mul_self_isFinite : (x.mul x).isFinite = true :=
  (mul_inRange hx hx (by decide) (by decide) (lo := F.minusOne) (hi := F.one) (by decide) (by decide +kernel)).isFinite
    (by decide)

theorem add_self_isFinite : (x.add x).isFinite = true :=
  (add_inRange hx hx (by decide) (by decide) (lo := F.two.neg) (hi := F.two) (by decide) (by decide +kernel)).isFinite
    (by decide)

/-- The value of `2x`, and the bounds `2|x| - 1` and `|x|` on the square of `x`. -/
theorem double_square_scaled : (x.add x).scaled = x.scaled + x.scaled ∧
    2 * |x.scaled| - F.one.scaled ≤ (x.mul x).scaled ∧ (x.mul x).scaled ≤ |x.scaled| := by
  rw [Int.abs_eq_natAbs, scaled_natAbs, one_scaled]
  exact ⟨add_self_scaled hx.mag_le_unit, le_mul_self_scaled hx.mag_le_unit, mul_self_scaled_le hx.mag_le_unit⟩

theorem blepAfter_inRange (h0 : 0 ≤ x.scaled) : InRange F.minusOne F.zero (blepAfter x) := by
  have hsq := mul_self_isFinite hx
  have hdbl := add_self_isFinite hx
  obtain ⟨hval, hlo, hhi⟩ := double_square_scaled hx
  rw [abs_of_nonneg h0] at hlo hhi
  have hrise : InUnit ((x.add x).sub (x.mul x)) :=
    sub_inRange (inRange_self (isFinite_not_isNaN hdbl)) (inRange_self (isFinite_not_isNaN hsq)) ⟨hdbl, hdbl⟩ ⟨hsq, hsq⟩
      (by decide) (by rw [scaled_zero]; omega)
  exact sub_inRange hrise (inRange_self (by decide)) (by decide) (by decide) (by decide) (by decide +kernel)

theorem blepBefore_inRange (h0 : x.scaled ≤ 0) : InRange F.zero F.one (blepBefore x) := by
  have hsq := mul_self_isFinite hx
  have hdbl := add_self_isFinite hx
  obtain ⟨hval, hlo, hhi⟩ := double_square_scaled hx
  rw [abs_of_nonpos h0] at hlo hhi
  have hfall : InRange F.minusOne F.zero ((x.mul x).add (x.add x)) :=
    add_inRange (inRange_self (isFinite_not_isNaN hsq)) (inRange_self (isFinite_not_isNaN hdbl)) ⟨hsq, hsq⟩ ⟨hdbl, hdbl⟩
      (by decide) (by rw [scaled_zero, minusOne_scaled]; omega)
  exact add_inRange hfall (inRange_self (by decide)) (by decide) (by decide) (by decide) (by decide +kernel)

end

section
variable {p dt : F} (hp : IsPhase p) (hdt : InRange F.zero F.half dt)
include hp hdt

/-- `p / dt` lies in [0, 1] where the phase is below the increment. -/
theorem blep_of_lt (h : p.lt dt = true) : InRange F.zero F.half p ∧ InRange F.minusOne F.zero (blep binary32 p dt) := by
  have hlt := (lt_iff.1 h).2.2
  have hfdt := hdt.isFinite (by decide)
  have hp0 := hp.inUnit.scaled.1
  have hpdt : InRange F.zero dt p :=
    inRange_iff.2 ⟨by decide, hdt.isNaN, hp.inUnit.isNaN, by rw [scaled_zero]; exact hp0, hlt.le⟩
  have hquot : InUnit (p.div dt) :=
    div_inRange hpdt (inRange_self hdt.isNaN) ⟨by decide, hfdt⟩ ⟨hfdt, hfdt⟩ (by decide) (by omega)
      (by simp [scaled_zero, one_scaled, mul_comm])
  refine ⟨hpdt.mono (by decide) (le_iff.2 ⟨hdt.isNaN, by decide, hdt.scaled.2⟩), ?_⟩
  rw [blep_eq, if_pos h]
  exact blepAfter_inRange (hquot.mono (by decide) (by decide)) hquot.scaled.1

/-- `(p - 1) / dt` lies in [-1, 0] where the phase is within an increment of 1. -/
theorem blep_of_gt (hn : ¬ p.lt dt = true) (h : (F.one.sub dt).lt p = true) :
    InRange F.half F.one p ∧ InRange F.zero F.one (blep binary32 p dt) := by
  have hfp := hp.inUnit.isFinite
  have hfdt := hdt.isFinite (by decide)
  have hnear : F.one.scaled - dt.scaled < p.scaled := by
    by_contra hc
    exact absurd (le_sub_scaled (by decide) hfdt p hp.inUnit.isNaN (not_lt.1 hc)) (not_le.2 (lt_iff.1 h).2.2)
  have hp1 := hp.inUnit.scaled.2
  have hhalf := half_scaled
  have hd := hdt.scaled.2
  have hdiff : InRange dt.neg F.zero (p.sub F.one) :=
    sub_inRange (inRange_self hp.inUnit.isNaN) (inRange_self (by decide)) ⟨hfp, hfp⟩ (by decide)
      ⟨(isFinite_neg dt).trans hfdt, by decide⟩ (by rw [scaled_neg, scaled_zero]; omega)
  have hquot : InRange F.minusOne F.zero ((p.sub F.one).div dt) :=
    div_inRange hdiff (inRange_self hdt.isNaN) ⟨(isFinite_neg dt).trans hfdt, by decide⟩ ⟨hfdt, hfdt⟩ (by decide)
      (by omega) (by simp [scaled_zero, scaled_neg, minusOne_scaled, one_scaled, mul_comm])
  refine ⟨inRange_iff.2 ⟨by decide, by decide, hp.inUnit.isNaN, by omega, hp1⟩, ?_⟩
  rw [blep_eq, if_neg hn, if_pos h]
  exact blepBefore_inRange (hquot.mono (by decide) (by decide)) hquot.scaled.2

/-- The correction is 0, or falls below it in the first half of a period, or rises above it in the second. -/
theorem blep_cases :
    InRange F.zero F.half p ∧ InRange F.minusOne F.zero (blep binary32 p dt) ∨
      InRange F.half F.one p ∧ InRange F.zero F.one (blep binary32 p dt) ∨ blep binary32 p dt = F.zero := by
  by_cases h : p.lt dt = true
  · exact .inl (blep_of_lt hp hdt h)
  by_cases h' : (F.one.sub dt).lt p = true
  · exact .inr (.inl (blep_of_gt hp hdt h h'))
  · exact .inr (.inr (by rw [blep_eq, if_neg h, if_neg h']))

theorem blep_isBipolar : IsBipolar (blep binary32 p dt) := by
  obtain ⟨-, h⟩ | ⟨-, h⟩ | h := blep_cases hp hdt
  · exact h.mono (by decide) (by decide)
  · exact h.mono (by decide) (by decide)
  · rw [h]
    exact inUnit_zero.mono (by decide) (by decide)

end

/-! ### The sawtooth and the pulses (R151 to R154) -/

section
variable {p dt : F} (hp : IsPhase p) (hdt : InRange F.zero F.half dt)
include hp hdt

/-- The sawtooth stays in range because the ramp is not positive where the correction is negative, and not negative where it
is positive. -/
theorem saw_isBipolar : IsBipolar (saw binary32 p dt) := by
  have hone : InRange F.one F.one F.one := inRange_self (by decide)
  have htwo : InRange F.two F.two F.two := inRange_self (by decide)
  obtain ⟨hlow, hb⟩ | ⟨hhigh, hb⟩ | hb := blep_cases hp hdt
  · have hdouble : InRange F.zero F.one (F.two.mul p) :=
      mul_inRange htwo hlow (by decide) (by decide) (by decide) (by decide +kernel)
    have hramp : InRange F.minusOne F.zero (ramp binary32 p) :=
      sub_inRange hdouble hone (by decide) (by decide) (by decide) (by decide +kernel)
    exact sub_inRange hramp hb (by decide) (by decide) (by decide) (by decide +kernel)
  · have hdouble : InRange F.one F.two (F.two.mul p) :=
      mul_inRange htwo hhigh (by decide) (by decide) (by decide) (by decide +kernel)
    have hramp : InRange F.zero F.one (ramp binary32 p) :=
      sub_inRange hdouble hone (by decide) (by decide) (by decide) (by decide +kernel)
    exact sub_inRange hramp hb (by decide) (by decide) (by decide) (by decide +kernel)
  · have hramp : IsBipolar (ramp binary32 p) := ramp_isBipolar (c := hw) rfl hp
    unfold saw
    rw [hb]
    exact sub_inRange hramp (inRange_self (by decide)) (by decide) (by decide) (by decide) (by decide +kernel)

/-- A level of ±1 and two corrections of magnitude at most 1; the second is taken at a phase, since the widths keep the sum
before the wrap at most 1.953125. -/
theorem pulse_inRange {w : F} (hwidth : InRange Config.pwMin Config.pwMax w) :
    InRange ⟨0xC0400000#32⟩ ⟨0x40400000#32⟩ (pulse binary32 p dt w) := by
  have hrest : InRange F.zero ⟨0x3F740000#32⟩ (F.one.sub w) :=
    sub_inRange (inRange_self (by decide)) hwidth (by decide) (by decide) (by decide) (by decide +kernel)
  have hsum : InRange F.zero ⟨0x3FFA0000#32⟩ (p.add (F.one.sub w)) :=
    add_inRange hp.inUnit hrest (by decide) (by decide) (by decide) (by decide +kernel)
  have hfall : IsPhase (p.add (F.one.sub w)).wrap := by
    obtain ⟨h0, h2⟩ := hsum.scaled
    exact wrap_isPhase (le_iff.2 ⟨by decide, hsum.isNaN, h0⟩)
      (lt_iff.2 ⟨hsum.isNaN, by decide, h2.trans_lt (by decide +kernel)⟩)
  have hlevel : IsBipolar (pulseLevel binary32 p w) := pulseLevel_isBipolar (c := hw) rfl p w
  have hrise : InRange F.two.neg F.two ((pulseLevel binary32 p w).add (blep binary32 p dt)) :=
    add_inRange hlevel (blep_isBipolar hp hdt) (by decide) (by decide) (by decide) (by decide +kernel)
  exact sub_inRange hrise (blep_isBipolar hfall hdt) (by decide) (by decide) (by decide) (by decide +kernel)

end

/-! ### SuperSaw (R155) -/

/-- A sum of `m` terms in [-1, 1] lies in `[-m, m]`. -/
theorem foldl_add_inRange {f : Int → F} (l : List Int) (hf : ∀ k ∈ l, IsBipolar (f k)) {m : Nat} {acc : F}
    (hm : m + l.length ≤ 2 ^ 24) (hacc : InRange (itof (-m)) (itof m) acc) :
    InRange (itof (-(m + l.length : Nat))) (itof (m + l.length : Nat)) (l.foldl (fun a k => a.add (f k)) acc) := by
  induction l generalizing m acc with
  | nil => exact hacc
  | cons k ks ih =>
    obtain ⟨hk, hks⟩ := List.forall_mem_cons.1 hf
    rw [List.length_cons] at hm
    have hnext : InRange (itof (-(m + 1 : Nat))) (itof (m + 1 : Nat)) (acc.add (f k)) :=
      add_inRange hacc hk ⟨itof_isFinite (by omega), itof_isFinite (by omega)⟩ (by decide)
        ⟨itof_isFinite (by omega), itof_isFinite (by omega)⟩ (by
          rw [scaled_itof_of_le (by omega), scaled_itof_of_le (by omega), scaled_itof_of_le (by omega),
            scaled_itof_of_le (by omega), minusOne_scaled, one_scaled]
          push_cast
          constructor <;> linarith)
    rw [List.length_cons, ← Nat.add_assoc, Nat.add_right_comm]
    exact ih hks (by omega) hnext

section
variable {c : Config} (hnum : c.num = binary32) {p dt d : F} (hp : IsPhase p) (hdt : InRange F.zero F.half dt)
  (hd : InUnit d) (hunit : c.ssUnit = Config.ssUnitDefault)
include hnum hp hdt hd hunit

theorem superSawTerm_isBipolar {k : Int} (hk : k ∈ superSawOffsets) : IsBipolar (superSawTerm c p dt d k) := by
  have hoffsets : ∀ k ∈ superSawOffsets, -3 ≤ k ∧ k ≤ 3 := by decide
  have hspread : InUnit (d.mul Config.ssUnitDefault) :=
    mul_inRange hd (inRange_self (by decide)) (by decide) (by decide) (by decide) (by decide +kernel)
  have hoff : InRange F.four.neg F.four ((itof k).mul (d.mul Config.ssUnitDefault)) :=
    mul_inRange (itof_inRange (by decide) (by decide) (hoffsets k hk)) hspread (by decide) (by decide) (by decide)
      (by decide +kernel)
  have hsum : InRange F.seven.neg F.seven (p.add ((itof k).mul (d.mul Config.ssUnitDefault))) :=
    add_inRange hp.inUnit hoff (by decide) (by decide) (by decide) (by decide +kernel)
  have hsaw := saw_isBipolar (frac_isPhase (hsum.isFinite (by decide))) hdt
  rw [superSawTerm_eq hnum, hunit]
  exact div_inRange hsaw (inRange_self (by decide)) (by decide) (by decide) (by decide) (by decide +kernel) (by decide +kernel)

theorem superSaw_isFinite : (superSaw c p dt d).isFinite = true := by
  have hsum := foldl_add_inRange superSawOffsets (fun _ hk => superSawTerm_isBipolar hnum hp hdt hd hunit hk) (m := 0)
    (by decide) (inRange_self (by decide))
  rw [superSaw_eq_foldl hnum]
  exact hsum.isFinite ⟨itof_isFinite (by decide), itof_isFinite (by decide)⟩

end

/-! ### One sample (R147, R157, R158) -/

/-- Settles O44: the formulas are the definitions at `binary32`, and each bound is the lemma above of its shape. -/
theorem oscillatorOutputIsBounded : Obligations.OscillatorOutputIsBounded := by
  refine ⟨fun c n p dt pw d hnum => ?_, fun c n o hnum => ?_, fun c n p dt pw d hnum hsin hdraw hunit hp hdt hpw hd =>
    ⟨?_, ?_, ?_, superSaw_isFinite hnum hp hdt hd hunit⟩⟩
  · simp only [shape_sine hnum, shape_triangle hnum, shape_sawtooth hnum, shape_square hnum, shape_pulse25 hnum,
      shape_pwm hnum, shape_superSaw hnum, superSawTerm_eq hnum, saw_eq, pulse_eq, hnum]
    exact ⟨blep_eq p dt, rfl, rfl, rfl, rfl, rfl, rfl, rfl, rfl⟩
  · unfold oscProcess
    rw [hnum, drawCount_eq]
    rfl
  · rw [hnum]
    exact blep_isBipolar hp hdt
  · simp only [List.forall_mem_cons, shape_sawtooth hnum]
    exact ⟨sine_isBipolar hnum hp hsin, triangle_isBipolar hnum hp, saw_isBipolar hp hdt, hdraw n, nofun⟩
  · simp only [List.forall_mem_cons, shape_square hnum, shape_pulse25 hnum, shape_pwm hnum]
    have hhalf : InRange Config.pwMin Config.pwMax F.half := inRange_iff.2 (by decide +kernel)
    have hquarter : InRange Config.pwMin Config.pwMax F.quarter := inRange_iff.2 (by decide +kernel)
    exact ⟨pulse_inRange hp hdt hhalf, pulse_inRange hp hdt hquarter, pulse_inRange hp hdt hpw, nofun⟩

end Machine
end Sys2Proof
end

section
/-! The wavetable oscillator (41_wavetable.md R175 to R181). A position is split into an index, bounded by the floor of the
position's own bound, and a fraction in [0, 1]; an interpolation at fraction 0 is its first operand. -/

namespace Sys2Proof

namespace F

theorem eqv_iff {x y : F} : x.eqv y = true ↔ x.isNaN = false ∧ y.isNaN = false ∧ x.scaled = y.scaled := by
  simp [eqv, and_assoc]

theorem eqv_trans {x y z : F} (hxy : x.eqv y = true) (hyz : y.eqv z = true) : x.eqv z = true := by
  obtain ⟨hx, -, hxy⟩ := eqv_iff.1 hxy
  obtain ⟨-, hz, hyz⟩ := eqv_iff.1 hyz
  exact eqv_iff.2 ⟨hx, hz, hxy.trans hyz⟩

/-- A number below a positive one is at most the number whose bits precede its bits. -/
theorem scaled_le_of_lt_of_succ {x y z : F} (h : x.lt y = true) (hz : z.isNaN = false) (hzs : z.sign = false)
    (hys : y.sign = false) (hsucc : y.low31 = z.low31 + 1) : x.scaled ≤ z.scaled := by
  obtain ⟨hx, hy, hlt⟩ := lt_iff.1 h
  cases hxs : x.sign with
  | true =>
    rw [scaled_nonneg_of_sign hzs]
    exact (scaled_nonpos_of_sign hxs).trans (Int.natCast_nonneg _)
  | false =>
    rw [scaled_lt_iff hx hy hxs hys] at hlt
    rw [scaled_le_iff hx hz hxs hzs]
    omega

end F

namespace Machine

open F

/-- The greatest binary32 number below 1. -/
def belowOne : F := ⟨0x3F7FFFFF#32⟩

theorem IsPhase.inRange_belowOne {p : F} (h : IsPhase p) : InRange F.zero belowOne p :=
  inRange_iff.2 ⟨by decide, by decide, h.inUnit.isNaN, h.inUnit.scaled.1,
    scaled_le_of_lt_of_succ h.2 (by decide) (by decide) (by decide) (by decide)⟩

/-! ### The positions on the two axes (R176, R177) -/

/-- The greatest binary32 number below 2048, which is 2048 times the greatest one below 1. -/
def below2048 : F := ⟨0x44FFFFFF#32⟩

theorem samplePos_inRange {p : F} (hp : IsPhase p) : InRange F.zero below2048 (p.mul F.c2048) :=
  mul_inRange hp.inRange_belowOne (inRange_self (by decide)) (by decide) (by decide) (by decide) (by decide +kernel)

theorem framePos_inRange {m : F} (hm : InUnit m) : InRange F.zero F.c255 (m.mul F.c255) :=
  mul_inRange hm (inRange_self (by decide)) (by decide) (by decide) (by decide) (by decide +kernel)

theorem splitPos_index_le {lo hi x : F} (h : InRange lo hi x) : (splitPos binary32 x).1 ≤ hi.floor.toNat :=
  Int.toNat_le_toNat (floor_mono h.scaled.2)

theorem splitPos_fraction_inUnit {x : F} (hx : x.isFinite = true) : InUnit (splitPos binary32 x).2 := by
  obtain ⟨hfin, hexact⟩ := itof_floor hx
  have hlo := floor_mul_le x
  have hhi := lt_floor_add_one_mul x
  refine inUnit_of_scaled (sub_not_isNaN hx hfin) ?_ (sub_scaled_le hx hfin F.one (by decide) ?_)
  · rw [← scaled_zero]
    exact le_sub_scaled hx hfin F.zero (by decide) (by rw [hexact, scaled_zero]; omega)
  · rw [hexact, one_scaled]
    linarith

/-- Settles O45: the floors of the greatest positions are 2047 and 255, and the successors wrap and saturate. -/
theorem wavetableIndicesAreInsideTheBank : Obligations.WavetableIndicesAreInsideTheBank := by
  refine ⟨fun p hp => ⟨?_, Nat.mod_lt _ (by decide)⟩, fun m hm => ⟨?_, ?_⟩, fun t => t.isLt⟩
  · have hfloor : below2048.floor.toNat = 2047 := by decide +kernel
    have hle := splitPos_index_le (samplePos_inRange hp)
    omega
  · have hfloor : F.c255.floor.toNat = 255 := by decide +kernel
    have hle := splitPos_index_le (framePos_inRange hm)
    omega
  · exact lt_of_le_of_lt (min_le_right _ _) (by decide)

/-! ### Interpolation (R178) -/

/-- A bound on the interpolations of samples in [-1, 1]. -/
abbrev IsInterpolated (x : F) : Prop := InRange F.four.neg F.four x

theorem IsBipolar.isInterpolated {x : F} (h : IsBipolar x) : IsInterpolated x := h.mono (by decide) (by decide)

theorem lerp_isInterpolated {a b u : F} (ha : IsBipolar a) (hb : IsBipolar b) (hu : InUnit u) :
    IsInterpolated (F.lerp a b u) := by
  have hdiff : InRange F.two.neg F.two (b.sub a) :=
    sub_inRange hb ha (by decide) (by decide) (by decide) (by decide +kernel)
  have hpart : InRange F.two.neg F.two (u.mul (b.sub a)) :=
    mul_inRange hu hdiff (by decide) (by decide) (by decide) (by decide +kernel)
  exact add_inRange ha hpart (by decide) (by decide) (by decide) (by decide +kernel)

theorem lerp_eqv_left {a b u : F} (ha : IsInterpolated a) (hb : IsInterpolated b) (hu : u.mag = 0) :
    (F.lerp a b u).eqv a = true := by
  have hdiff : InRange F.twelve.neg F.twelve (b.sub a) :=
    sub_inRange hb ha (by decide) (by decide) (by decide) (by decide +kernel)
  have hzero : InRange F.zero F.zero u := by
    have hs := scaled_of_mag_zero hu
    exact inRange_iff.2 ⟨by decide, by decide, not_isNaN_of_mag_zero hu, by rw [hs, scaled_zero], by rw [hs, scaled_zero]⟩
  have hpart : InRange F.zero F.zero (u.mul (b.sub a)) :=
    mul_inRange hzero hdiff (by decide) (by decide) (by decide) (by decide +kernel)
  have hfin := ha.isFinite (by decide)
  have hsum : InRange a a (a.add (u.mul (b.sub a))) :=
    add_inRange (inRange_self ha.isNaN) hpart ⟨hfin, hfin⟩ (by decide) ⟨hfin, hfin⟩ (by rw [scaled_zero]; omega)
  exact eqv_iff.2 ⟨hsum.isNaN, ha.isNaN, le_antisymm hsum.scaled.2 hsum.scaled.1⟩

/-! ### The read (R175, R179) -/

/-- The sample-axis interpolation inside table frame `f` (R176). -/
def frameRead (c : Config) (t : BitVec 3) (p : F) (f : Nat) : F :=
  let i := splitPos binary32 (p.mul F.c2048)
  F.lerp (c.wtRom t.toNat f i.1) (c.wtRom t.toNat f (nextSample i.1)) i.2

section
variable {c : Config} (hnum : c.num = binary32)
include hnum

theorem wtRead_eq_lerp (t : BitVec 3) (m p : F) :
    wtRead c t m p =
      let f := splitPos binary32 (m.mul F.c255)
      F.lerp (frameRead c t p f.1) (frameRead c t p (nextFrame f.1)) f.2 := by
  unfold wtRead
  rw [hnum]
  rfl

theorem wtProcess_eq (w : Wt) :
    wtProcess c w = (wtRead c w.table w.morph w.phase, { w with phase := (w.phase.add (w.freq.div w.fs)).wrap }) := by
  unfold wtProcess
  rw [hnum]
  rfl

variable (hrom : RomBounded c) {p : F} (hp : IsPhase p) (t : BitVec 3)
include hrom hp

omit hnum in
theorem frameRead_isInterpolated (f : Nat) : IsInterpolated (frameRead c t p f) :=
  lerp_isInterpolated (hrom ..) (hrom ..) (splitPos_fraction_inUnit ((samplePos_inRange hp).isFinite (by decide)))

omit hnum hp in
theorem frameRead_eqv_entry (hfr : (splitPos binary32 (p.mul F.c2048)).2.mag = 0) (f : Nat) :
    (frameRead c t p f).eqv (c.wtRom t.toNat f (splitPos binary32 (p.mul F.c2048)).1) = true :=
  lerp_eqv_left (hrom ..).isInterpolated (hrom ..).isInterpolated hfr

/-- At a morph position that falls on a table frame no other frame is heard. -/
theorem wtRead_eqv_frameRead {m : F} {f : Nat} (hm : splitPos binary32 (m.mul F.c255) = (f, F.zero)) :
    (wtRead c t m p).eqv (frameRead c t p f) = true := by
  rw [wtRead_eq_lerp hnum, hm]
  exact lerp_eqv_left (frameRead_isInterpolated hrom hp t _) (frameRead_isInterpolated hrom hp t _) (rfl : F.zero.mag = 0)

end

theorem splitPos_morph_zero : splitPos binary32 (F.zero.mul F.c255) = (0, F.zero) := by decide +kernel

theorem splitPos_morph_one : splitPos binary32 (F.one.mul F.c255) = (255, F.zero) := by decide +kernel

/-- Settles O46: the read is an interpolation between two table frames, and both ends of the morph axis fall on a frame. -/
theorem wavetableEndsAreExact : Obligations.WavetableEndsAreExact := by
  refine ⟨fun c t m p hnum => ?_, fun c w hnum => wtProcess_eq hnum w, fun c t p hnum hrom hp => ?_⟩
  · rw [wtRead_eq_lerp hnum]
    simp only [frameRead, lerp_eq]
    rfl
  have hzero := wtRead_eqv_frameRead hnum hrom hp t splitPos_morph_zero
  have hone := wtRead_eqv_frameRead hnum hrom hp t splitPos_morph_one
  exact ⟨hzero, hone, fun hfr => ⟨eqv_trans hzero (frameRead_eqv_entry hrom t hfr 0),
    eqv_trans hone (frameRead_eqv_entry hrom t hfr 255)⟩⟩

end Machine
end Sys2Proof
end

section
/-! The filter (42_filter.md R194 to R200): the machine's formulas in the default format, and why its four stages stay in
[-12, 12]. A stage at or beyond the saturation point of `ftanh` does not move outward, and any other moves by at most 2.5. -/

namespace Sys2Proof

namespace F

/-- A number that is neither finite nor a NaN is an infinity. -/
theorem eq_inf_of_not_isFinite {x : F} (hx : x.isNaN = false) (h : x.isFinite = false) : x = inf x.sign := by
  have hle := (isNaN_false_iff x).1 hx
  have hlow : x.low31 = infBits := by
    by_contra hne
    rw [(isFinite_iff x).2 (by omega)] at h
    exact absurd h (by decide)
  conv_lhs => rw [← build_sign_low31 x, hlow]
  rfl

end F

namespace Machine

open F

/-- A number, infinite or not, times a nonzero finite one is no NaN. -/
theorem mul_not_isNaN_of_ne_zero {x y : F} (hx : x.isNaN = false) (hy : y.isFinite = true) (h0 : y.mag ≠ 0) :
    (x.mul y).isNaN = false := by
  cases hfin : x.isFinite with
  | true => exact mul_not_isNaN hfin hy
  | false =>
    have hinf := inf_mul_finite x.sign hy
    rw [if_neg h0, ← eq_inf_of_not_isFinite hx hfin] at hinf
    rw [hinf.1]
    exact inf_not_isNaN _

/-! ### The formulas in the default format (R194 to R199) -/

section
variable {c : Config} (hnum : c.num = binary32) (f : Flt) (x g s : F)
include hnum

theorem fltG_eq :
    fltG c f = c.gCoef (if c.fcMax.lt (f.cutoff.div f.fs) then c.fcMax else f.cutoff.div f.fs) := by
  simp only [fltG, normCutoff, hnum, binary32_div, binary32_lt]

theorem fltDriven_eq :
    fltDriven c f x = c.ftanh (x.mul (F.one.add (Config.driveGain.mul f.drive))) := by
  simp only [fltDriven, hnum, binary32_mul, binary32_add, binary32_lit, ofLit_one, ofLit_driveGain]

theorem fltNode_eq :
    fltNode c f x = (fltDriven c f x).sub ((Config.resScale.mul f.res).mul f.s3) := by
  simp only [fltNode, hnum, binary32_mul, binary32_sub, binary32_lit, ofLit_resScale]

theorem fltStage_eq : fltStage c g x s = s.add (g.mul ((c.ftanh x).sub (c.ftanh s))) := by
  simp only [fltStage, hnum, binary32_add, binary32_mul, binary32_sub]

end

/-- What the bound on the stages needs of a configuration: the default format, `TANH_BOUND` and `TANH_SAT` (R18). -/
structure Saturates (c : Config) : Prop where
  num : c.num = binary32
  bound : TanhBound c
  sat : TanhSat c

/-! ### The coefficient and the input node (R194 to R197) -/

theorem fltG_inRange {c : Config} (hnum : c.num = binary32) {f : Flt} (hg : GRange c) (hmax : c.fcMax = F.half)
    (hcut : InRange Config.cutMin Config.cutMax f.cutoff) (hfs : InRange Config.fsMinDefault Config.fsMaxDefault f.fs) :
    InRange F.zero ⟨0x3FA00000#32⟩ (fltG c f) := by
  have hquot : InRange F.zero F.four (f.cutoff.div f.fs) :=
    div_inRange hcut hfs (by decide) (by decide) (by decide) (by decide +kernel) (by decide +kernel)
  rw [fltG_eq hnum, hmax]
  refine hg _ ?_
  split_ifs with h
  · exact inRange_iff.2 (by decide +kernel)
  · have hle := (lt_false_iff (x := F.half) (by decide) hquot.isNaN).1 (by simpa using h)
    exact inRange_iff.2 ⟨by decide, by decide, hquot.isNaN, hquot.scaled.1, hle⟩

section
variable {c : Config} (hc : Saturates c) {f : Flt} {x : F} (hx : x.isNaN = false)
include hc hx

theorem fltDriven_isBipolar (hdrive : InUnit f.drive) : IsBipolar (fltDriven c f x) := by
  have hextra : InRange F.zero F.four (Config.driveGain.mul f.drive) :=
    mul_inRange (inRange_self (by decide)) hdrive (by decide) (by decide) (by decide) (by decide +kernel)
  have hgain : InRange F.one F.seven (F.one.add (Config.driveGain.mul f.drive)) :=
    add_inRange (inRange_self (by decide)) hextra (by decide) (by decide) (by decide) (by decide +kernel)
  have hpos : 0 < F.one.scaled := by decide +kernel
  have hne : (F.one.add (Config.driveGain.mul f.drive)).mag ≠ 0 := fun h0 => by
    have hs := hgain.scaled.1
    rw [scaled_of_mag_zero h0] at hs
    omega
  rw [fltDriven_eq hc.num]
  exact hc.bound _ (mul_not_isNaN_of_ne_zero hx (hgain.isFinite (by decide)) hne)

theorem fltNode_not_isNaN (hdrive : InUnit f.drive) (hres : InUnit f.res) (hs : IsStage f.s3) :
    (fltNode c f x).isNaN = false := by
  have hk : InRange F.zero F.four (Config.resScale.mul f.res) :=
    mul_inRange (inRange_self (by decide)) hres (by decide) (by decide) (by decide) (by decide +kernel)
  have hback : InRange F.c255.neg F.c255 ((Config.resScale.mul f.res).mul f.s3) :=
    mul_inRange hk hs (by decide) (by decide) (by decide) (by decide +kernel)
  rw [fltNode_eq hc.num]
  exact sub_not_isNaN ((fltDriven_isBipolar hc hx hdrive).isFinite (by decide)) (hback.isFinite (by decide))

end

/-! ### The four stages (R198, R200) -/

section
variable {c : Config} (hc : Saturates c)
include hc

theorem fltStage_isStage {g x s : F} (hg : InRange F.zero ⟨0x3FA00000#32⟩ g) (hx : x.isNaN = false) (hs : IsStage s) :
    IsStage (fltStage c g x s) := by
  have htx := hc.bound x hx
  rw [fltStage_eq hc.num]
  by_cases hhigh : tanhSat.le s = true
  · rw [(hc.sat s).1 hhigh]
    have hdiff : InRange F.two.neg F.zero ((c.ftanh x).sub F.one) :=
      sub_inRange htx (inRange_self (by decide)) (by decide) (by decide) (by decide) (by decide +kernel)
    have hmove : InRange ⟨0xC0200000#32⟩ F.zero (g.mul ((c.ftanh x).sub F.one)) :=
      mul_inRange hg hdiff (by decide) (by decide) (by decide) (by decide +kernel)
    have hs' : InRange tanhSat stageBound s :=
      inRange_iff.2 ⟨by decide, by decide, hs.isNaN, (le_iff.1 hhigh).2.2, hs.scaled.2⟩
    exact add_inRange hs' hmove (by decide) (by decide) (by decide) (by decide +kernel)
  by_cases hlow : s.le tanhSat.neg = true
  · rw [(hc.sat s).2 hlow]
    have hdiff : InRange F.zero F.two ((c.ftanh x).sub F.minusOne) :=
      sub_inRange htx (inRange_self (by decide)) (by decide) (by decide) (by decide) (by decide +kernel)
    have hmove : InRange F.zero ⟨0x40200000#32⟩ (g.mul ((c.ftanh x).sub F.minusOne)) :=
      mul_inRange hg hdiff (by decide) (by decide) (by decide) (by decide +kernel)
    have hs' : InRange stageBound.neg tanhSat.neg s :=
      inRange_iff.2 ⟨by decide, by decide, hs.isNaN, hs.scaled.1, (le_iff.1 hlow).2.2⟩
    exact add_inRange hs' hmove (by decide) (by decide) (by decide) (by decide +kernel)
  · have hdiff : InRange F.two.neg F.two ((c.ftanh x).sub (c.ftanh s)) :=
      sub_inRange htx (hc.bound s hs.isNaN) (by decide) (by decide) (by decide) (by decide +kernel)
    have hmove : InRange ⟨0xC0200000#32⟩ ⟨0x40200000#32⟩ (g.mul ((c.ftanh x).sub (c.ftanh s))) :=
      mul_inRange hg hdiff (by decide) (by decide) (by decide) (by decide +kernel)
    have hs' : InRange tanhSat.neg tanhSat s :=
      inRange_iff.2 ⟨by decide, by decide, hs.isNaN, ((le_false_iff hs.isNaN (by decide)).1 (by simpa using hlow)).le,
        ((le_false_iff (by decide) hs.isNaN).1 (by simpa using hhigh)).le⟩
    exact add_inRange hs' hmove (by decide) (by decide) (by decide) (by decide +kernel)

/-- One filter sample keeps the four stages in [-12, 12], each stage taking its predecessor's new value (R198, R200). -/
theorem fltProcess_bounded {f : Flt} {x : F} (hg : InRange F.zero ⟨0x3FA00000#32⟩ (fltG c f)) (hx : x.isNaN = false)
    (hres : InUnit f.res) (hdrive : InUnit f.drive) (hf : FltBounded f) : FltBounded (fltProcess c f x).2 := by
  obtain ⟨h0, h1, h2, h3⟩ := hf
  have hnode := fltNode_not_isNaN hc hx hdrive hres h3
  have h0' := fltStage_isStage hc hg hnode h0
  have h1' := fltStage_isStage hc hg h0'.isNaN h1
  have h2' := fltStage_isStage hc hg h1'.isNaN h2
  exact ⟨h0', h1', h2', fltStage_isStage hc hg h2'.isNaN h3⟩

end

/-- Settles O50: the formulas are the definitions at `binary32`, and each stage keeps its bound (`fltStage_isStage`). -/
theorem filterStagesStayBounded : Obligations.FilterStagesStayBounded := by
  refine ⟨fun c f x hnum => ?_, fun c f x hnum htanh hsat hg hmax hx hres hdrive hcut hfs hf => ?_⟩
  · simp only [fltProcess, fltG_eq hnum, fltNode_eq hnum, fltDriven_eq hnum, fltStage_eq hnum]
    rfl
  · have hbounded := fltProcess_bounded ⟨hnum, htanh, hsat⟩ (fltG_inRange hnum hg hmax hcut hfs) hx hres hdrive hf
    exact ⟨hbounded, hbounded.2.2.2⟩

end Machine
end Sys2Proof
end

section
/-! The default filter coefficient (42_filter.md R194). Its values are compared with the quartic over the rational numbers: each
operation adds at most 2^-17 to the distance, so the bounds of the exact quartic, which has margins, are bounds on the machine's.
Below `w = 1` the exact quartic has no margin at 0; there each negative term is smaller than the positive one before it, and
rounding, being monotone, keeps it so. -/

namespace Sys2Proof

namespace F

/-! ### The rounding error (R13) -/

/-- A fraction below `2 ^ (s + 24)` is rounded by at most half a last place of `2 ^ s`. -/
theorem abs_ofRatio_sub_le {neg : Bool} {z : Int} {d s : Nat} (hd : 0 < d) (hs : s + 24 ≤ 276)
    (hz : z = if neg then -(z.natAbs : Int) else z.natAbs) (h : z.natAbs < 2 ^ (s + 24) * d) :
    (ofRatio neg z.natAbs d).isFinite = true ∧ 2 * |(ofRatio neg z.natAbs d).scaled * d - z| ≤ 2 ^ s * d := by
  have hover : z.natAbs < overflowMag * d :=
    h.trans_le (Nat.mul_le_mul_right d ((Nat.pow_le_pow_right (by decide) hs).trans (by decide +kernel)))
  refine ⟨ofRatio_isFinite hd hover neg, ?_⟩
  have hplace : lastPlace (z.natAbs / d) ≤ s := by
    have hlog : Nat.log2 (z.natAbs / d) < s + 24 ∨ z.natAbs / d = 0 := by
      by_cases h0 : z.natAbs / d = 0
      · exact .inr h0
      · exact .inl ((Nat.log2_lt h0).2 ((Nat.div_lt_iff_lt_mul hd).2 h))
    unfold lastPlace
    rcases hlog with hlog | h0
    · omega
    · simp [h0]
  have hstep : d * 2 ^ lastPlace (z.natAbs / d) ≤ 2 ^ s * d := by
    rw [Nat.mul_comm]
    exact Nat.mul_le_mul_right d (Nat.pow_le_pow_right (by decide) hplace)
  obtain ⟨hup, hlow, -⟩ := roundHalfEven_bounds z.natAbs (d * 2 ^ lastPlace (z.natAbs / d)) (by positivity)
  have hmag : (ofRatio neg z.natAbs d).mag * d =
      roundHalfEven z.natAbs (d * 2 ^ lastPlace (z.natAbs / d)) * (d * 2 ^ lastPlace (z.natAbs / d)) := by
    rw [mag_ofRatio hd hover, roundedSig]
    ring
  rw [abs_scaled_sub _ neg hz, if_pos (sign_ofRatio ..), ← Nat.cast_mul, hmag]
  have hcast : ((2 ^ s * d : Nat) : Int) = 2 ^ s * d := by push_cast; rfl
  rw [← hcast, Int.abs_eq_natAbs]
  omega

/-- The rational number that a finite `x` is. -/
def value (x : F) : ℚ := x.scaled / unit

theorem unit_rat_pos : (0 : ℚ) < unit := by exact_mod_cast unit_pos

theorem scaled_eq_value_mul (x : F) : (x.scaled : ℚ) = x.value * unit := (div_mul_cancel₀ _ unit_rat_pos.ne').symm

theorem value_le_iff {x y : F} : x.value ≤ y.value ↔ x.scaled ≤ y.scaled := by
  unfold value
  rw [div_le_div_iff_of_pos_right unit_rat_pos, Int.cast_le]

/-- What a result of magnitude below 256 is rounded by, at most. -/
def roundError : ℚ := 1 / 2 ^ 17

/-- Rounding a fraction of magnitude below 256. -/
theorem abs_value_ofRatio_sub_le {neg : Bool} {z : Int} {d : Nat} (hd : 0 < d)
    (hz : z = if neg then -(z.natAbs : Int) else z.natAbs) {q : ℚ} (hq : (z : ℚ) = q * unit * d) (h : |q| < 256) :
    (ofRatio neg z.natAbs d).isFinite = true ∧ |(ofRatio neg z.natAbs d).value - q| ≤ roundError := by
  have hd' : (0 : ℚ) < d := by exact_mod_cast hd
  have hsmall : z.natAbs < 2 ^ (133 + 24) * d := by
    have habs : ((z.natAbs : Nat) : ℚ) = |q| * unit * d := by
      rw [Nat.cast_natAbs, Int.cast_abs, hq, abs_mul, abs_mul, abs_of_pos unit_rat_pos, abs_of_pos hd']
    have hlt : ((z.natAbs : Nat) : ℚ) < 256 * unit * d := by
      rw [habs]
      exact mul_lt_mul_of_pos_right (mul_lt_mul_of_pos_right h unit_rat_pos) hd'
    have hunit : 256 * unit = 2 ^ (133 + 24) := by decide +kernel
    rw [← hunit]
    exact_mod_cast hlt
  obtain ⟨hfin, herr⟩ := abs_ofRatio_sub_le hd (by decide) hz hsmall
  refine ⟨hfin, ?_⟩
  have herr' : 2 * |((ofRatio neg z.natAbs d).scaled : ℚ) * d - z| ≤ 2 ^ 133 * d := by exact_mod_cast herr
  have hfactor : ((ofRatio neg z.natAbs d).scaled : ℚ) * d - z = ((ofRatio neg z.natAbs d).value - q) * (unit * d) := by
    rw [hq, scaled_eq_value_mul]
    ring
  have hpos : (0 : ℚ) < unit * d := mul_pos unit_rat_pos hd'
  have hunit : (2 : ℚ) ^ 133 = 2 * (roundError * unit) := by
    unfold roundError unit
    norm_num
  rw [hfactor, abs_mul, abs_of_pos hpos, hunit] at herr'
  refine le_of_mul_le_mul_right ?_ hpos
  linarith

/-- A sum as `ofSum_eq_ofRatio` rounds it: of the sign of the exact sum, or a zero. -/
theorem ofSum_sign_form (z : Int) (b : Bool) :
    z = if (if z = 0 then b else decide (z < 0)) = true then -(z.natAbs : Int) else z.natAbs := by
  rcases lt_trichotomy z 0 with h | rfl | h
  · rw [if_neg h.ne, if_pos (decide_eq_true h)]
    omega
  · simp
  · rw [if_neg h.ne', if_neg (by simpa using h.le)]
    omega

section
variable {a b : F} (ha : a.isFinite = true) (hb : b.isFinite = true)
include ha hb

theorem mul_value_error (h : |a.value * b.value| < 256) :
    (a.mul b).isFinite = true ∧ |(a.mul b).value - a.value * b.value| ≤ roundError := by
  rw [mul_eq_ofRatio ha hb]
  refine abs_value_ofRatio_sub_le unit_pos (mul_sign_form a b) ?_ h
  rw [Int.cast_mul, scaled_eq_value_mul, scaled_eq_value_mul]
  ring

theorem add_value_error (h : |a.value + b.value| < 256) :
    (a.add b).isFinite = true ∧ |(a.add b).value - (a.value + b.value)| ≤ roundError := by
  rw [add_finite ha hb, Machine.ofSum_eq_ofRatio]
  refine abs_value_ofRatio_sub_le one_pos (ofSum_sign_form _ _) ?_ h
  rw [Int.cast_add, scaled_eq_value_mul, scaled_eq_value_mul]
  push_cast
  ring

end

/-- `x` is a finite number within `δ` of `r`, which is of magnitude at most `R`. -/
structure Near (x : F) (r R δ : ℚ) : Prop where
  finite : x.isFinite = true
  size : |r| ≤ R
  error : |x.value - r| ≤ δ

theorem near_of_value {x : F} {r R : ℚ} (hx : x.isFinite = true) (h : x.value = r) (hr : |r| ≤ R) : Near x r R 0 :=
  ⟨hx, hr, by simp [h]⟩

section
variable {a b : F} {r t R T δ η : ℚ} (ha : Near a r R δ) (hb : Near b t T η)
include ha hb

theorem Near.add (h : R + δ + (T + η) < 256) : Near (a.add b) (r + t) (R + T) (δ + η + roundError) := by
  obtain ⟨hfa, hr, ha⟩ := ha
  obtain ⟨hfb, ht, hb⟩ := hb
  have hexact : |a.value + b.value - (r + t)| ≤ δ + η := by
    rw [add_sub_add_comm]
    exact (abs_add_le _ _).trans (add_le_add ha hb)
  have hsum : |r + t| ≤ R + T := (abs_add_le r t).trans (add_le_add hr ht)
  have hsize : |a.value + b.value| < 256 := by
    have := abs_sub_abs_le_abs_sub (a.value + b.value) (r + t)
    linarith
  obtain ⟨hfin, herr⟩ := add_value_error hfa hfb hsize
  refine ⟨hfin, hsum, ?_⟩
  have := abs_sub_le (a.add b).value (a.value + b.value) (r + t)
  linarith

theorem Near.mul (h : (R + δ) * (T + η) < 256) : Near (a.mul b) (r * t) (R * T) (δ * (T + η) + R * η + roundError) := by
  obtain ⟨hfa, hr, ha⟩ := ha
  obtain ⟨hfb, ht, hb⟩ := hb
  have hR0 := (abs_nonneg _).trans hr
  have hδ0 := (abs_nonneg _).trans ha
  have hA : |a.value| ≤ R + δ := by linarith [abs_sub_abs_le_abs_sub a.value r]
  have hB : |b.value| ≤ T + η := by linarith [abs_sub_abs_le_abs_sub b.value t]
  have hexact : |a.value * b.value - r * t| ≤ δ * (T + η) + R * η := by
    rw [show a.value * b.value - r * t = (a.value - r) * b.value + r * (b.value - t) by ring]
    refine (abs_add_le _ _).trans ?_
    rw [abs_mul, abs_mul]
    exact add_le_add (mul_le_mul ha hB (abs_nonneg _) hδ0) (mul_le_mul hr hb (abs_nonneg _) hR0)
  have hsize : |a.value * b.value| < 256 := by
    rw [abs_mul]
    exact (mul_le_mul hA hB (abs_nonneg _) (by linarith)).trans_lt h
  obtain ⟨hfin, herr⟩ := mul_value_error hfa hfb hsize
  refine ⟨hfin, ?_, ?_⟩
  · rw [abs_mul]
    exact mul_le_mul hr ht (abs_nonneg _) hR0
  · have := abs_sub_le (a.mul b).value (a.value * b.value) (r * t)
    linarith

end

end F

namespace Machine

open F

/-! ### The exact quartic (R194) -/

/-- The quartic of R194 in `w` over the rational numbers, the coefficients being the binary32 defaults of `G1` to `G4`. -/
def exactQuartic (w : ℚ) : ℚ :=
  8298011 / 2 ^ 23 * w + -7284667 / 2 ^ 24 * (w * w) + 4633867 / 2 ^ 25 * (w * w * w) +
    -1355599 / 2 ^ 26 * (w * w * w * w)

theorem exactQuartic_le (w : ℚ) : exactQuartic w ≤ 6 / 5 := by
  unfold exactQuartic
  nlinarith [sq_nonneg (w - 3), sq_nonneg (w * w - 3 * w + 1)]

theorem le_exactQuartic {w : ℚ} (h1 : 1 ≤ w) (h2 : w ≤ 22 / 7) : 1 / 4 ≤ exactQuartic w := by
  unfold exactQuartic
  nlinarith [mul_nonneg (sub_nonneg.2 h1) (sub_nonneg.2 h2)]

/-! ### The coefficient follows the exact quartic -/

theorem value_eq {x : F} {k : Int} {e : Nat} (h : x.scaled * 2 ^ e = k * unit) : x.value = k / 2 ^ e := by
  have hq : (x.scaled : ℚ) * 2 ^ e = k * unit := by exact_mod_cast h
  unfold value
  rw [div_eq_div_iff unit_rat_pos.ne' (by positivity), hq]

theorem value_g1 : Config.g1Default.value = 8298011 / 2 ^ 23 := value_eq (by decide +kernel)

theorem value_g2 : Config.g2Default.value = -7284667 / 2 ^ 24 := value_eq (k := -7284667) (by decide +kernel)

theorem value_g3 : Config.g3Default.value = 4633867 / 2 ^ 25 := value_eq (by decide +kernel)

theorem value_g4 : Config.g4Default.value = -1355599 / 2 ^ 26 := value_eq (k := -1355599) (by decide +kernel)

/-- The default coefficient at `w` (R194). -/
def coefficientAt (w : F) : F :=
  (((Config.g1Default.mul w).add (Config.g2Default.mul (w.mul w))).add (Config.g3Default.mul ((w.mul w).mul w))).add
    (Config.g4Default.mul (((w.mul w).mul w).mul w))

theorem gCoef_eq (fc : F) : hw.gCoef fc = coefficientAt (Config.twoPi.mul fc) := rfl

/-- The binary32 number nearest to pi, which is `w` at `fc = 0.5`. -/
def piF : F := ⟨0x40490FDB#32⟩

theorem value_piF_le : piF.value ≤ 22 / 7 := by
  have h : piF.scaled * 2 ^ 22 = 13176795 * unit := by decide +kernel
  rw [value_eq h]
  norm_num

theorem angle_inRange {fc : F} (h : InRange F.zero F.half fc) : InRange F.zero piF (Config.twoPi.mul fc) :=
  mul_inRange (inRange_self (by decide)) h (by decide) (by decide) (by decide) (by decide +kernel)

theorem value_zero : F.zero.value = 0 := by rw [value, scaled_zero, Int.cast_zero, zero_div]

/-- The error of ten products and sums. -/
theorem coefficientAt_near {w : F} (hw : InRange F.zero piF w) :
    (coefficientAt w).isFinite = true ∧ |(coefficientAt w).value - exactQuartic w.value| ≤ 1 / 100 := by
  have hv0 : 0 ≤ w.value := value_zero ▸ value_le_iff.2 hw.scaled.1
  have hv1 : w.value ≤ 22 / 7 := (value_le_iff.2 hw.scaled.2).trans value_piF_le
  have hw1 : Near w w.value (22 / 7) 0 := near_of_value (hw.isFinite (by decide)) rfl (by rwa [abs_of_nonneg hv0])
  have hg1 : Near Config.g1Default _ 1 0 := near_of_value (by decide) value_g1 (by norm_num)
  have hg2 : Near Config.g2Default _ 1 0 := near_of_value (by decide) value_g2 (by norm_num)
  have hg3 : Near Config.g3Default _ 1 0 := near_of_value (by decide) value_g3 (by norm_num)
  have hg4 : Near Config.g4Default _ 1 0 := near_of_value (by decide) value_g4 (by norm_num)
  have hw2 := hw1.mul hw1 (by norm_num)
  have hw3 := hw2.mul hw1 (by norm_num [roundError])
  have hw4 := hw3.mul hw1 (by norm_num [roundError])
  have hsum2 := (hg1.mul hw1 (by norm_num)).add (hg2.mul hw2 (by norm_num [roundError])) (by norm_num [roundError])
  have hsum3 := hsum2.add (hg3.mul hw3 (by norm_num [roundError])) (by norm_num [roundError])
  have hsum4 := hsum3.add (hg4.mul hw4 (by norm_num [roundError])) (by norm_num [roundError])
  exact ⟨hsum4.finite, hsum4.error.trans (by norm_num [roundError])⟩

/-! ### Below `w = 1` -/

/-- The rounded product of the smaller factors has the smaller magnitude. -/
theorem mul_mag_mono {a b c d : F} (ha : a.isFinite = true) (hb : b.isFinite = true) (hc : c.isFinite = true)
    (hd : d.isFinite = true) (hca : c.mag ≤ a.mag) (hdb : d.mag ≤ b.mag) : (c.mul d).mag ≤ (a.mul b).mag := by
  have hle (n : Nat) := magBits_le_infBits n unit
  rw [mul_finite hc hd, mul_finite ha hb, ofRatio, ofRatio, mag_build _ _ (hle _), mag_build _ _ (hle _),
    magOfBits_le_iff (hle _) (hle _)]
  exact magBits_mono _ _ _ _ unit_pos unit_pos (Nat.mul_le_mul_right unit (Nat.mul_le_mul hca hdb))

/-- A product that is not negative outweighs one of smaller factors. -/
theorem mul_add_mul_nonneg {a b c d : F} (ha : a.isFinite = true) (hb : b.isFinite = true) (hc : c.isFinite = true)
    (hd : d.isFinite = true) (hca : c.mag ≤ a.mag) (hdb : d.mag ≤ b.mag) (h : 0 ≤ (a.mul b).scaled) :
    0 ≤ (a.mul b).scaled + (c.mul d).scaled := by
  have hmag := mul_mag_mono ha hb hc hd hca hdb
  rw [← scaled_natAbs, ← scaled_natAbs] at hmag
  omega

/-- A factor in [0, 1] does not enlarge a number that is not negative. -/
theorem mul_inUnit_inRange {x u : F} (hx : InUnit x) (hu : InUnit u) : InRange F.zero x (x.mul u) := by
  have hself : InRange F.zero x x := inRange_iff.2 ⟨by decide, hx.isNaN, hx.isNaN, (InRange.scaled hx).1, le_rfl⟩
  have hpos : 0 ≤ x.scaled * (unit : Int) := mul_nonneg hx.scaled.1 (Int.natCast_nonneg _)
  have hb : FiniteBounds F.zero x := ⟨by decide, hx.isFinite⟩
  exact mul_inRange hself hu hb (by decide) hb (by simp [scaled_zero, one_scaled, hpos])

theorem mul_inUnit {x u : F} (hx : InUnit x) (hu : InUnit u) : InUnit (x.mul u) :=
  mul_inRange hx hu (by decide) (by decide) (by decide) (by decide +kernel)

/-- Two neighbouring terms of the quartic, `a · x` and `c · (x · w)`: the negative one is the smaller. -/
theorem terms_add_nonneg {a c x w : F} (ha : InUnit a) (hc : InRange F.minusOne F.zero c) (hca : c.mag ≤ a.mag)
    (hx : InUnit x) (hw : InUnit w) :
    InUnit (a.mul x) ∧ InRange F.minusOne F.zero (c.mul (x.mul w)) ∧
      0 ≤ (a.mul x).scaled + (c.mul (x.mul w)).scaled := by
  have hxw := mul_inUnit hx hw
  have hterm := mul_inUnit ha hx
  have hmag : (x.mul w).mag ≤ x.mag := by
    have hs := (mul_inUnit_inRange hx hw).scaled
    rw [scaled_zero] at hs
    rw [← scaled_natAbs, ← scaled_natAbs]
    omega
  exact ⟨hterm, mul_inRange hc hxw (by decide) (by decide) (by decide) (by decide +kernel),
    mul_add_mul_nonneg ha.isFinite hx.isFinite (hc.isFinite (by decide)) hxw.isFinite hca hmag hterm.scaled.1⟩

/-- The sum of four terms from left to right is not negative when no negative term outweighs the one before it. -/
theorem sum_nonneg_of_pairs {p₁ p₂ p₃ p₄ : F} (h₁ : InUnit p₁) (h₂ : InRange F.minusOne F.zero p₂) (h₃ : InUnit p₃)
    (h₄ : InRange F.minusOne F.zero p₄) (h₁₂ : 0 ≤ p₁.scaled + p₂.scaled) (h₃₄ : 0 ≤ p₃.scaled + p₄.scaled) :
    F.zero.scaled ≤ (((p₁.add p₂).add p₃).add p₄).scaled := by
  have hzero := scaled_zero
  have hrange₂ : InRange F.minusOne F.one (p₁.add p₂) :=
    add_inRange h₁ h₂ (by decide) (by decide) (by decide) (by decide +kernel)
  have hrange₃ : InRange F.minusOne F.two ((p₁.add p₂).add p₃) :=
    add_inRange hrange₂ h₃ (by decide) (by decide) (by decide) (by decide +kernel)
  have hsum₂ : F.zero.scaled ≤ (p₁.add p₂).scaled :=
    le_add_scaled h₁.isFinite (h₂.isFinite (by decide)) _ (by decide) (by omega)
  have hsum₃ : p₃.scaled ≤ ((p₁.add p₂).add p₃).scaled :=
    le_add_scaled (hrange₂.isFinite (by decide)) h₃.isFinite _ h₃.isNaN (by omega)
  exact le_add_scaled (hrange₃.isFinite (by decide)) (h₄.isFinite (by decide)) _ (by decide) (by omega)

theorem coefficientAt_nonneg {w : F} (hw : InUnit w) : F.zero.scaled ≤ (coefficientAt w).scaled := by
  obtain ⟨h₁, h₂, h₁₂⟩ := terms_add_nonneg (a := Config.g1Default) (c := Config.g2Default)
    (inRange_iff.2 (by decide +kernel)) (inRange_iff.2 (by decide +kernel)) (by decide +kernel) hw hw
  obtain ⟨h₃, h₄, h₃₄⟩ := terms_add_nonneg (a := Config.g3Default) (c := Config.g4Default)
    (inRange_iff.2 (by decide +kernel)) (inRange_iff.2 (by decide +kernel)) (by decide +kernel)
    (mul_inUnit (mul_inUnit hw hw) hw) hw
  exact sum_nonneg_of_pairs h₁ h₂ h₃ h₄ h₁₂ h₃₄

/-! ### The range of the coefficient -/

theorem gRange_hw : GRange hw := by
  intro fc hfc
  rw [gCoef_eq]
  have hw := angle_inRange hfc
  generalize Config.twoPi.mul fc = w at hw
  obtain ⟨hfin, hnear⟩ := coefficientAt_near hw
  rw [abs_le] at hnear
  have hle : (coefficientAt w).value ≤ (F.mk 0x3FA00000#32).value := by
    have htop : (F.mk 0x3FA00000#32).value = 5 / 2 ^ 2 := value_eq (k := 5) (by decide +kernel)
    rw [htop]
    linarith [exactQuartic_le w.value]
  refine inRange_iff.2 ⟨by decide, by decide, isFinite_not_isNaN hfin, ?_, value_le_iff.1 hle⟩
  have hone : F.one.value = 1 := (value_eq (k := 1) (e := 0) (by decide +kernel)).trans (by norm_num)
  rcases le_total F.one.value w.value with h | h
  · have hpi := (value_le_iff.2 hw.scaled.2).trans value_piF_le
    rw [hone] at h
    refine value_le_iff.1 ?_
    rw [value_zero]
    linarith [le_exactQuartic h hpi]
  · exact coefficientAt_nonneg (inUnit_of_scaled hw.isNaN (scaled_zero ▸ hw.scaled.1) (value_le_iff.1 h))

/-- Settles O51: the exact quartic has its bounds with margins (`coefficientAt_near`), and near 0 no negative term outweighs the
positive one before it (`coefficientAt_nonneg`). -/
theorem defaultFilterCoefficientIsInRange : Obligations.DefaultFilterCoefficientIsInRange :=
  ⟨gRange_hw, fun _ => rfl, fltG_eq rfl, fun _ f hnum => fltG_eq hnum f⟩

end Machine

end Sys2Proof
end

section
/-! The filter bound (42_filter.md R200) under every command. No command but `PROCESS` touches a filter stage; `PROCESS` gives the
filter of each active voice an input that is no NaN and a cutoff of its domain, because every signal and modulation before
the filter is bounded (40_oscillator.md R158, 41_wavetable.md R179, 45_voice.md R251 to R254). -/

namespace Sys2Proof

namespace Machine

open F

/-! ### The sources of a voice (R155, R158, R178) -/

/-- A bound on what the oscillators and the wavetable give: `x` lies in [-12, 12]. -/
abbrev IsSource (x : F) : Prop := InRange F.twelve.neg F.twelve x

theorem IsBipolar.isSource {x : F} (h : IsBipolar x) : IsSource x := h.mono (by decide) (by decide)

section
variable {c : Config} (hnum : c.num = binary32) {p dt : F} (hp : IsPhase p)
include hnum hp

theorem shape_isSource (hsin : SinBound c) (hdraw : DrawBounded c) (hunit : c.ssUnit = Config.ssUnitDefault)
    (hdt : InRange F.zero F.half dt) {pw d : F} (hpw : InRange Config.pwMin Config.pwMax pw) (hd : InUnit d) (n : Nat)
    (k : WaveformKind) : IsSource (shape c n k p dt pw d) := by
  have hpulse {w : F} (hw : InRange Config.pwMin Config.pwMax w) : IsSource (pulse binary32 p dt w) :=
    (pulse_inRange hp hdt hw).mono (by decide) (by decide)
  cases k with
  | sine => exact (sine_isBipolar hnum hp hsin).isSource
  | triangle => exact (triangle_isBipolar hnum hp).isSource
  | sawtooth =>
    rw [shape_sawtooth hnum]
    exact (saw_isBipolar hp hdt).isSource
  | square =>
    rw [shape_square hnum]
    exact hpulse (inRange_iff.2 (by decide +kernel))
  | pulse25 =>
    rw [shape_pulse25 hnum]
    exact hpulse (inRange_iff.2 (by decide +kernel))
  | pwm =>
    rw [shape_pwm hnum]
    exact hpulse hpw
  | superSaw =>
    show IsSource (superSaw c p dt d)
    have hsum := foldl_add_inRange superSawOffsets (fun _ hk => superSawTerm_isBipolar hnum hp hdt hd hunit hk) (m := 0)
      (by decide) (inRange_self (by decide))
    rw [superSaw_eq_foldl hnum]
    exact hsum.mono (by decide) (by decide)
  | noise => exact (hdraw n).isSource

theorem wtRead_isSource (hrom : RomBounded c) (t : BitVec 3) {m : F} (hm : InUnit m) : IsSource (wtRead c t m p) := by
  have hu := splitPos_fraction_inUnit ((framePos_inRange hm).isFinite (by decide))
  rw [wtRead_eq_lerp hnum]
  have ha := frameRead_isInterpolated hrom hp t (splitPos binary32 (m.mul F.c255)).1
  have hb := frameRead_isInterpolated hrom hp t (nextFrame (splitPos binary32 (m.mul F.c255)).1)
  have hdiff := sub_inRange hb ha (by decide) (by decide) (lo := ⟨0xC1000000#32⟩) (hi := ⟨0x41000000#32⟩) (by decide)
    (by decide +kernel)
  have hpart := mul_inRange hu hdiff (by decide) (by decide) (lo := ⟨0xC1000000#32⟩) (hi := ⟨0x41000000#32⟩) (by decide)
    (by decide +kernel)
  exact add_inRange ha hpart (by decide) (by decide) (by decide) (by decide +kernel)

end

theorem oscProcess_isSource {o : Osc} {kind : WaveformKind} {pw detune fs f : F} (hphase : IsPhase o.phase)
    (hcopies : OscCopies o kind pw detune fs) (hpw : InRange Config.pwMin Config.pwMax pw) (hdetune : InUnit detune)
    (hfs : InRange hw.fsMin hw.fsMax fs) (hf : f.isNaN = false) (n : Nat) :
    IsSource (oscProcess hw n (oscSetFrequency binary32 o f)).1 := by
  obtain ⟨-, -, -, -, -, -, hsin, -, -, -, -, -, hdraw⟩ := machineFunctionsHaveTheNamedProperties
  obtain ⟨-, rfl, rfl, rfl⟩ := hcopies
  exact shape_isSource rfl hphase hsin hdraw rfl (clampFreq_div_inRange hfs hf) hpw hdetune n _

/-! ### The routing (R253, R254) -/

theorem mul_inUnit_of_symmetric {m a u : F} (hm : m.isFinite = true) (ha : InRange m.neg m a) (hu : InUnit u) :
    InRange m.neg m (a.mul u) := by
  have hb : FiniteBounds m.neg m := ⟨(isFinite_neg m).trans hm, hm⟩
  have hs := ha.scaled
  rw [scaled_neg] at hs
  have hpos : 0 ≤ m.scaled * (unit : Int) := mul_nonneg (by omega) (Int.natCast_nonneg _)
  exact mul_inRange ha hu hb (by decide) hb (by simp [scaled_neg, scaled_zero, one_scaled]; omega)

/-- A cross-fade at most doubles the bound of its two signals. -/
theorem crossFade_inRange {m n a b x : F} (hm : m.isFinite = true) (hn : n.isFinite = true)
    (hmn : m.scaled + m.scaled ≤ n.scaled) (ha : InRange m.neg m a) (hb : InRange m.neg m b) (hx : InUnit x) :
    InRange n.neg n (crossFade binary32 a b x) := by
  have hrest : InUnit (F.one.sub x) :=
    sub_inRange (inRange_self (by decide)) hx (by decide) (by decide) (by decide) (by decide +kernel)
  have hbm : FiniteBounds m.neg m := ⟨(isFinite_neg m).trans hm, hm⟩
  exact add_inRange (mul_inUnit_of_symmetric hm ha hrest) (mul_inUnit_of_symmetric hm hb hx) hbm hbm
    ⟨(isFinite_neg n).trans hn, hn⟩ (by rw [scaled_neg, scaled_neg]; omega)

theorem modCutoff_not_isNaN {v : Voice} {l fe : F} (hl : IsBipolar l) (hfe : InUnit fe) (henv : InUnit v.envAmt)
    (hlfo : InUnit v.lfoToFlt) (hbase : InRange Config.cutMin Config.cutMax v.baseCutoff) :
    (modCutoff binary32 v l fe).isNaN = false := by
  have hsweep := mul_inUnit hfe henv
  have hwobble : IsBipolar (l.mul v.lfoToFlt) := mul_inUnit_of_symmetric (m := F.one) (by decide) hl hlfo
  have hdepth : IsBipolar ((l.mul v.lfoToFlt).mul Config.lfoFltDepth) :=
    mul_inUnit_of_symmetric (m := F.one) (by decide) hwobble (inRange_iff.2 (by decide +kernel))
  have hsum : InRange F.two.neg F.two ((fe.mul v.envAmt).add ((l.mul v.lfoToFlt).mul Config.lfoFltDepth)) :=
    add_inRange hsweep hdepth (by decide) (by decide) (by decide) (by decide +kernel)
  have hscaled := mul_inRange hsum (inRange_self (x := Config.cutModScale) (by decide)) (by decide) (by decide)
    (lo := F.twelve.neg) (hi := F.twelve) (by decide) (by decide +kernel)
  have hfactor := add_inRange (inRange_self (x := F.one) (by decide)) hscaled (by decide) (by decide)
    (lo := F.c255.neg) (hi := F.c255) (by decide) (by decide +kernel)
  exact mul_not_isNaN (hbase.isFinite (by decide)) (hfactor.isFinite (by decide))

/-! ### One sample of a voice (R251) -/

/-- The signal that a voice gives its filter at the frequency `f`, its oscillators reached at the draw counts `n₁` and `n₂`. -/
def voiceSignal (n₁ n₂ : Nat) (f : F) (v : Voice) : F :=
  crossFade binary32
    (crossFade binary32 (oscProcess hw n₁ (oscSetFrequency binary32 v.osc1 f)).1
      (oscProcess hw n₂ (oscSetFrequency binary32 v.osc2 f)).1 v.oscMix)
    (wtRead hw v.wt.table v.wt.morph v.wt.phase) v.wtMix

/-- What one sample does to a voice's filter. -/
theorem voiceProcess_flt (n : Nat) (v : Voice) :
    (voiceProcess hw n v).2.1.flt =
      let l := naiveShape hw n v.lfo.kind v.lfo.phase
      let n₁ := n + drawsOf v.lfo.kind
      (fltProcess hw (fltSetCutoff binary32 v.flt (modCutoff binary32 v l (envNext binary32 v.fltEnv).level))
        (voiceSignal n₁ (n₁ + drawsOf v.osc1.kind) (v.baseFreq.mul (pitchMod binary32 v l)) v)).2 := rfl

section
variable {s : State} (hdomain : InDomain s) {v : Voice} (hcopies : VoiceCopies s.params s.sampleRate v) (hsound : VoiceSound v)
include hdomain hcopies hsound

theorem voiceSignal_not_isNaN {f : F} (hf : f.isNaN = false) (n₁ n₂ : Nat) : (voiceSignal n₁ n₂ f v).isNaN = false := by
  obtain ⟨-, -, -, -, -, -, -, -, -, -, -, hrom, -⟩ := machineFunctionsHaveTheNamedProperties
  have hrate := hdomain.sampleRate
  have hval := hdomain.value
  obtain ⟨hosc1, hosc2, ⟨-, hmorph, -⟩, -, -, -, -, hmix, hwtMix, -⟩ := hcopies
  obtain ⟨hphase1, hphase2, hphaseWt, -⟩ := hsound
  have hsrc1 := oscProcess_isSource hphase1 hosc1 (hval .osc1Pw) (hval .osc1Detune) hrate hf n₁
  have hsrc2 := oscProcess_isSource hphase2 hosc2 (hval .osc2Pw) (hval .osc2Detune) hrate hf n₂
  have hsrcWt := wtRead_isSource (c := hw) rfl hphaseWt hrom v.wt.table (m := v.wt.morph) (hmorph ▸ hval .wtPos)
  have hoscs : InRange F.c255.neg F.c255 (crossFade binary32 _ _ v.oscMix) :=
    crossFade_inRange (by decide) (by decide) (by decide +kernel) hsrc1 hsrc2 (hmix ▸ hval .oscMix)
  have hall : InRange F.c2048.neg F.c2048 (voiceSignal n₁ n₂ f v) :=
    crossFade_inRange (by decide) (by decide) (by decide +kernel) hoscs (hsrcWt.mono (by decide) (by decide))
      (hwtMix ▸ hval .wtMix)
  exact hall.isNaN

/-- One sample of a voice keeps its filter stages in [-12, 12]: the filter's input is no NaN and its cutoff lies in its
domain. -/
theorem fltBounded_voiceProcess (n : Nat) (hflt : FltBounded v.flt) : FltBounded (voiceProcess hw n v).2.1.flt := by
  obtain ⟨htanh, -, -, -, hsat, -, hsin, -, -, -, -, -, hdraw⟩ := machineFunctionsHaveTheNamedProperties
  have hval := hdomain.value
  have hsignal {f : F} (hf : f.isNaN = false) := voiceSignal_not_isNaN hdomain hcopies hsound hf
  obtain ⟨-, -, -, -, -, ⟨hfltEnv, -⟩, -⟩ := voiceSound_voiceProcess n hdomain hcopies hsound
  obtain ⟨-, -, -, ⟨hres, hdrive, hfs⟩, -, -, -, -, -, henv, hlfo, hpitch, hbase⟩ := hcopies
  have hfreq := voiceFreq_not_isNaN n hsound (hpitch ▸ hval .lfoToPitch)
  obtain ⟨-, -, -, hphase, -⟩ := hsound
  have hl := naiveShape_isBipolar (c := hw) rfl hphase hsin hdraw n v.lfo.kind
  have hcutoff := modCutoff_not_isNaN (v := v) hl hfltEnv (henv ▸ hval .fltEnvAmt) (hlfo ▸ hval .lfoToFilter)
    (hbase ▸ hval .fltCutoff)
  rw [voiceProcess_flt]
  exact fltProcess_bounded ⟨rfl, htanh, hsat⟩
    (fltG_inRange rfl gRange_hw rfl (clamp_inRange hcutoff (by decide)) (hfs ▸ hdomain.sampleRate))
    (hsignal hfreq _ _) (hres ▸ hval .fltRes) (hdrive ▸ hval .fltDrive) hflt

end

/-! ### Every command and every step -/

/-- The filter bound is about the sound state. -/
theorem fltBounded_of_soundState {v w : Voice} (h : soundState v = soundState w) (hw : FltBounded w.flt) :
    FltBounded v.flt := by
  simp only [soundState, Prod.mk.injEq] at h
  obtain ⟨-, -, -, ⟨h0, h1, h2, h3⟩, -⟩ := h
  simpa only [FltBounded, h0, h1, h2, h3] using hw

theorem setParam_stagesBounded {β : Type} {a : BitVec 8} {ok : β → Prop} {word : β → Word} {store : Params → β → Params}
    {copy : Voice → β → Voice} (hreg : IsRegister a ok word store copy) (x : β) {s : State} (h : StagesBounded s) :
    StagesBounded (setParam x store copy s) := fun i =>
  fltBounded_of_soundState (soundState_setParam hreg x s i) (h i)

theorem noteOn_stagesBounded (note vel : BitVec 7) {s : State} (h : StagesBounded s) :
    StagesBounded (noteOn hw note vel s) := by
  refine forall_set (P := fun v => FltBounded v.flt) h (allocate s) ?_
  rw [voiceNoteOn_flt]
  exact fltBounded_of_soundState (soundState_broadcast _ _ _) (h (allocate s))

theorem noteOff_stagesBounded (note : BitVec 7) {s : State} (h : StagesBounded s) : StagesBounded (noteOff note s) := by
  intro i
  rw [noteOff_voices, Fin.getElem_fin, mapVoices_get]
  unfold releaseIfNote
  split
  · exact h i
  · exact h i

/-- The invariant of a step: the engine invariant and the filter bound. -/
structure FilterInv (s : State) : Prop where
  engine : EngineInv s
  stages : StagesBounded s

theorem frameVoice_filterInv (a : F × State) (i : Fin 16) (h : FilterInv a.2) : FilterInv (frameVoice hw a i).2 := by
  obtain ⟨hinv, hstages⟩ := h
  refine ⟨frameVoice_engineInv a i hinv, ?_⟩
  obtain ⟨-, heq⟩ | ⟨-, heq⟩ := frameVoice_cases hw a i
  · obtain ⟨hcopies, hsound⟩ := hinv.voice i
    rw [heq]
    exact forall_set (P := fun v => FltBounded v.flt) hstages i
      (fltBounded_voiceProcess hinv.1 hcopies hsound _ (hstages i))
  · rwa [heq]

theorem frame_filterInv (s : State) (h : FilterInv s) : FilterInv (frame hw s) := by
  refine ⟨frame_engineInv s h.engine, fun i => ?_⟩
  rw [frame_voices]
  exact (frameSum_keeps (P := FilterInv) hw frameVoice_filterInv s h).stages i

theorem effect_filterInv (i : Instr) (s : State) (h : FilterInv s) : FilterInv (effect hw i s) := by
  refine ⟨effect_engineInv i s h.engine, ?_⟩
  have hstages := h.stages
  cases isCommand i with
  | nop => exact hstages
  | noteOn note vel => exact noteOn_stagesBounded note vel hstages
  | noteOff note => exact noteOff_stagesBounded note hstages
  | process k => exact (processFrames_keeps (P := FilterInv) hw frame_filterInv k.toNat s h).stages
  | bioHrv val =>
    exact withReal_keeps (P := StagesBounded) hstages fun _ =>
      setParam_stagesBounded RealParam.fltCutoff.isRegister _ hstages
  | bioCoh val =>
    exact withReal_keeps (P := StagesBounded) hstages fun _ =>
      setParam_stagesBounded RealParam.wtPos.isRegister _ hstages
  | setSampleRate val =>
    exact withReal_keeps (P := StagesBounded) hstages fun _ j =>
      fltBounded_of_soundState (soundState_putSampleRate _ s j) (hstages j)
  | setCtrl b => exact hstages
  | clrStatus b => cases b <;> exact hstages
  | real r val =>
    rw [r.effect_setter]
    exact withReal_keeps (P := StagesBounded) hstages fun _ => setParam_stagesBounded r.isRegister _ hstages
  | wave r k =>
    rw [r.effect_setter]
    exact setParam_stagesBounded r.isRegister k hstages
  | table t => exact setParam_stagesBounded wtTable_isRegister t hstages
  | rd a =>
    obtain ⟨err, w, heq⟩ := rd_eq a s
    rw [show effect hw (.rd a) s = rd binary32 a s from rfl, heq]
    exact hstages

/-- Settles O59: every command keeps both invariants (`effect_filterInv`), and a rejection touches no voice. -/
theorem everyStepKeepsTheFilterBound : Obligations.EveryStepKeepsTheFilterBound := by
  intro s t hinv hstages hstep
  refine ⟨everyStepKeepsTheEngineInvariant s t hinv hstep, ?_⟩
  rw [← eq_of_next ((step_eq s).symm.trans hstep)]
  refine (stepIn_keeps (P := FilterInv) (fun _ _ h => ⟨h.engine.congr rfl rfl rfl, h.stages⟩) effect_filterInv
    (fun r s h => ⟨?_, fun i => ?_⟩) ⟨hinv, hstages⟩).stages
  · exact h.engine.congr (reject_params r s) (reject_sampleRate r s) (reject_voices r s)
  · rw [reject_voices]
    exact h.stages i

end Machine
end Sys2Proof
end

section
/-! The envelope (43_envelope.md R210 to R222). Each arm either moves the level one step or ends its stage at that stage's
last level; the listed transitions and the direction of the level are read off these two cases. -/

namespace Sys2Proof

namespace Machine

open F

/-! ### The arm of each stage (R214 to R219) -/

section
variable {α : Type} {num : Numerics α} {e : EnvOf α}

theorem envNext_of_idle (h : e.stage = .idle) : envNext num e = e := by simp only [envNext, h]

theorem envNext_of_attack (h : e.stage = .attack) : envNext num e = envAttack num e := by simp only [envNext, h]

theorem envNext_of_decay (h : e.stage = .decay) : envNext num e = envDecay num e := by simp only [envNext, h]

theorem envNext_of_sustain (h : e.stage = .sustain) : envNext num e = envSustain e := by simp only [envNext, h]

theorem envNext_of_release (h : e.stage = .release) : envNext num e = envRelease num e := by simp only [envNext, h]

variable (num e)

theorem envAttack_cases :
    envAttack num e = { e with level := num.lit .one, stage := .decay } ∨
      envAttack num e = { e with level := num.add e.level e.aRate } :=
  ite_eq_or_eq ..

theorem envDecay_cases :
    envDecay num e = { e with level := e.sustain, stage := .sustain } ∨
      envDecay num e = { e with level := num.sub e.level e.dRate } :=
  ite_eq_or_eq ..

theorem envRelease_cases :
    envRelease num e = { e with level := num.lit .zero, stage := .idle } ∨
      envRelease num e = { e with level := num.sub e.level (num.mul e.rRate e.relStart) } :=
  ite_eq_or_eq ..

/-- The stages that one sample can lead to (R210). -/
theorem envNext_stage :
    (envNext num e).stage = e.stage ∨ (e.stage = .attack ∧ (envNext num e).stage = .decay) ∨
      (e.stage = .decay ∧ (envNext num e).stage = .sustain) ∨ (e.stage = .release ∧ (envNext num e).stage = .idle) := by
  cases h : e.stage with
  | idle => exact .inl (by rw [envNext_of_idle h, h])
  | attack =>
    rw [envNext_of_attack h]
    rcases envAttack_cases num e with heq | heq
    · exact .inr (.inl ⟨rfl, by rw [heq]⟩)
    · exact .inl (by rw [heq, h])
  | decay =>
    rw [envNext_of_decay h]
    rcases envDecay_cases num e with heq | heq
    · exact .inr (.inr (.inl ⟨rfl, by rw [heq]⟩))
    · exact .inl (by rw [heq, h])
  | sustain => exact .inl (by rw [envNext_of_sustain h]; exact h)
  | release =>
    rw [envNext_of_release h]
    rcases envRelease_cases num e with heq | heq
    · exact .inr (.inr (.inr ⟨rfl, by rw [heq]⟩))
    · exact .inl (by rw [heq, h])

end

theorem envIsActive_iff (e : Env) : envIsActive e = true ↔ e.stage ≠ .idle := decide_eq_true_iff

/-- Settles O38: the stages of one sample by `envNext_stage`; note-on, note-off and activity as R212, R213 and R220 write them. -/
theorem envelopeTransitionsAreTheListedOnes : Obligations.EnvelopeTransitionsAreTheListedOnes := fun e =>
  ⟨envNext_stage binary32 e, rfl, fun h => if_neg h, fun h => ⟨if_pos h, envNext_of_idle h⟩, envIsActive_iff e⟩

/-- Settles O39: the next envelope is the arm of the stage on entry, in the default format. -/
theorem envelopeArms : Obligations.EnvelopeArms := fun _ =>
  ⟨rfl, fun h => envNext_of_attack h, fun h => envNext_of_decay h, fun h => envNext_of_sustain h, fun h => envNext_of_release h⟩

/-! ### The cached rates (R211) -/

/-- The rates of the registers' domains. The shortest time, 0.1 ms, at the lowest sample rate, 8000 Hz, is 0.8 samples; it
rounds to no less than 0x3F4CCCCD, the least binary32 number above 0.8. The longest time is less than 2^22 samples. -/
theorem envRate_inRange {ms fs : F} (hms : InRange hw.tMin hw.tMax ms) (hfs : InRange hw.fsMin hw.fsMax fs) :
    InRange ⟨0x34800000#32⟩ ⟨0x3FA00000#32⟩ (envRate binary32 ms fs) := by
  have hsec : InRange ⟨0x38D1B718#32⟩ ⟨0x41800000#32⟩ (ms.mul F.milli) :=
    mul_inRange hms (inRange_self (by decide)) (by decide) (by decide) (by decide) (by decide +kernel)
  have hsamples : InRange ⟨0x3F4CCCCD#32⟩ ⟨0x4A800000#32⟩ ((ms.mul F.milli).mul fs) :=
    mul_inRange hsec hfs (by decide) (by decide) (by decide) (by decide +kernel)
  exact div_inRange (inRange_self (by decide)) hsamples (by decide) (by decide) (by decide) (by decide +kernel)
    (by decide +kernel)

/-- Settles O40: the bounds of `envRate_inRange` are a positive number and 1.25. -/
theorem envelopeRatesArePositive : Obligations.EnvelopeRatesArePositive := by
  refine ⟨fun _ _ => rfl, fun ms fs hms hfs => ?_, by decide +kernel⟩
  have hrate := envRate_inRange hms hfs
  have hpos : F.zero.scaled < (F.mk 0x34800000#32).scaled := by decide +kernel
  exact ⟨hrate.isFinite (by decide), lt_iff.2 ⟨by decide, hrate.isNaN, hpos.trans_le hrate.scaled.1⟩,
    le_iff.2 ⟨hrate.isNaN, by decide, hrate.scaled.2⟩⟩

/-! ### The direction of the level (R222) -/

theorem InUnit.le_one {x : F} (h : InUnit x) : x.le F.one = true := le_iff.2 ⟨h.isNaN, by decide, h.scaled.2⟩

theorem InUnit.zero_le {x : F} (h : InUnit x) : F.zero.le x = true :=
  le_iff.2 ⟨by decide, h.isNaN, by rw [scaled_zero]; exact h.scaled.1⟩

/-- A step up does not go down. -/
theorem IsRate.le_add {x d : F} (hd : IsRate d) (hx : x.isFinite = true) : x.le (x.add d) = true := by
  have hnan := isFinite_not_isNaN hx
  exact le_iff.2 ⟨hnan, add_not_isNaN hx hd.1, le_add_scaled hx hd.1 x hnan (by linarith [hd.scaled_nonneg])⟩

theorem IsRate.sub_le {x d : F} (hd : IsRate d) (hx : x.isFinite = true) : (x.sub d).le x = true :=
  le_iff.2 ⟨sub_not_isNaN hx hd.1, isFinite_not_isNaN hx, hd.sub_scaled_le hx⟩

section
variable {e : Env} (hlevel : InUnit e.level)
include hlevel

theorem le_envAttack_level (hr : IsRate e.aRate) : e.level.le (envAttack binary32 e).level = true := by
  rcases envAttack_cases binary32 e with heq | heq <;> rw [heq]
  · exact hlevel.le_one
  · exact hr.le_add hlevel.isFinite

theorem envDecay_level_le (hr : IsRate e.dRate) (hs : e.sustain.le e.level = true) :
    (envDecay binary32 e).level.le e.level = true := by
  rcases envDecay_cases binary32 e with heq | heq <;> rw [heq]
  · exact hs
  · exact hr.sub_le hlevel.isFinite

theorem envRelease_level_le (hr : IsRate e.rRate) (hrel : InUnit e.relStart) :
    (envRelease binary32 e).level.le e.level = true := by
  rcases envRelease_cases binary32 e with heq | heq <;> rw [heq]
  · exact hlevel.zero_le
  · exact (hr.mul_inUnit hrel).sub_le hlevel.isFinite

end

/-- Settles O41: the unit interval and Idle by `envNext_sound`, the direction by the arm of each stage. -/
theorem envelopeLevelStaysInTheUnitInterval : Obligations.EnvelopeLevelStaysInTheUnitInterval := by
  intro e he hsustain hrates
  simp only [List.forall_mem_cons] at hrates
  obtain ⟨ha, hd, hr, -⟩ := hrates
  have hsound := envNext_sound he hsustain ha hd hr
  obtain ⟨hlevel, hrel, -⟩ := he
  refine ⟨hsound, fun h => ?_, fun h hle => ?_, fun h => ?_⟩
  · rw [envNext_of_attack h]
    exact le_envAttack_level hlevel ha
  · rw [envNext_of_decay h]
    exact envDecay_level_le hlevel hd hle
  · rw [envNext_of_release h]
    exact envRelease_level_le hlevel hr hrel

end Machine
end Sys2Proof
end

section
/-! The LFO's shapes (44_lfo.md R235): the uncorrected closed forms in the default format. Their range is `naiveShape_isBipolar`. -/

namespace Sys2Proof

namespace Machine

section
variable {c : Config} (hnum : c.num = binary32) (p : F)
include hnum

theorem sine_eq : sine c p = c.fsin (Config.twoPi.mul p) := by
  unfold sine
  rw [hnum]
  rfl

theorem triangle_eq : triangle c.num p = (F.four.mul (p.sub F.half).abs).sub F.one := by
  rw [hnum]
  rfl

theorem ramp_eq : ramp c.num p = (F.two.mul p).sub F.one := by
  rw [hnum]
  rfl

theorem pulseLevel_eq (w : Lit) :
    pulseLevel c.num p (c.num.lit w) = if p.lt (binary32.lit w) then F.one else F.minusOne := by
  rw [hnum]
  rfl

end

theorem drawsOf_eq (k : WaveformKind) : drawsOf k = if k = .noise then 1 else 0 := by
  simpa only [Nat.zero_add] using drawCount_eq 0 k

/-- Settles O43: each arm of `naiveShape` is its table row at `binary32`. PWM has Square's arm and SuperSaw has Sawtooth's. -/
theorem lfoShapesLieBetweenMinusOneAndOne : Obligations.LfoShapesLieBetweenMinusOneAndOne := by
  refine ⟨fun c n p hnum => ?_, drawsOf_eq, fun c n k p hnum hsin hdraw hp => naiveShape_isBipolar hnum hp hsin hdraw n k⟩
  have hsquare : naiveShape c n .square p = if p.lt F.half then F.one else F.minusOne := pulseLevel_eq hnum p .half
  have hsawtooth : naiveShape c n .sawtooth p = (F.two.mul p).sub F.one := ramp_eq hnum p
  exact ⟨sine_eq hnum p, triangle_eq hnum p, hsawtooth, hsquare, pulseLevel_eq hnum p .quarter, hsquare, hsawtooth, rfl⟩

end Machine
end Sys2Proof
end

section
/-! The frames that a step emits (45_voice.md R257, 46_voice_pool.md R272, R273): a voice's sample is bounded as its fourth filter
stage is, and a frame is the sum of at most 16 samples times `MASTER_VOL`. -/

namespace Sys2Proof

namespace Machine

open F

/-! ### The sample of a voice (R251, R257) -/

/-- A voice's sample is its fourth filter stage times (amplitude level times velocity). -/
theorem voiceProcess_sample {c : Config} (hnum : c.num = binary32) (n : Nat) (v : Voice) :
    (voiceProcess c n v).1 =
      (voiceProcess c n v).2.1.flt.s3.mul ((envNext binary32 v.ampEnv).level.mul v.vel) := by
  simp only [voiceProcess, envProcess, hnum, binary32_mul]
  rfl

theorem voiceProcess_sample_isStage {s : State} (hdomain : InDomain s) {v : Voice}
    (hcopies : VoiceCopies s.params s.sampleRate v) (hsound : VoiceSound v) (hflt : FltBounded v.flt) (n : Nat) :
    IsStage (voiceProcess hw n v).1 := by
  obtain ⟨-, -, -, hs3⟩ := fltBounded_voiceProcess hdomain hcopies hsound n hflt
  obtain ⟨-, -, -, -, ⟨hlevel, -⟩, -, hvel, -⟩ := voiceSound_voiceProcess n hdomain hcopies hsound
  rw [voiceProcess_sample rfl]
  exact mul_inUnit_of_symmetric (by decide) hs3 (mul_inUnit hlevel hvel)

/-! ### The sum over the voices (R272) -/

/-- A bound on the sum of `m` samples in [-12, 12]. -/
def SampleSum (m : Nat) (x : F) : Prop := InRange (itof (-(12 * m : Nat))) (itof (12 * m : Nat)) x

section
variable {m : Nat} {x : F} (h : SampleSum m x) (hm : 12 * (m + 1) ≤ 2 ^ 24)
include h hm

theorem SampleSum.add {y : F} (hy : IsStage y) : SampleSum (m + 1) (x.add y) := by
  have hfin (k : Nat) (hk : k ≤ m + 1) : FiniteBounds (itof (-(12 * k : Nat))) (itof (12 * k : Nat)) :=
    ⟨itof_isFinite (by omega), itof_isFinite (by omega)⟩
  have hstage : stageBound.scaled = 12 * (unit : Int) := by decide +kernel
  refine add_inRange h hy (hfin m (by omega)) (by decide) (hfin (m + 1) le_rfl) ?_
  rw [scaled_itof_of_le (by omega), scaled_itof_of_le (by omega), scaled_itof_of_le (by omega),
    scaled_itof_of_le (by omega), scaled_neg, hstage]
  push_cast
  constructor <;> linarith

/-- A voice that is skipped adds nothing. -/
theorem SampleSum.skip : SampleSum (m + 1) x := by
  have hle {a b : Int} (ha : a.natAbs ≤ 2 ^ 24) (hb : b.natAbs ≤ 2 ^ 24) (hab : a ≤ b) : (itof a).le (itof b) = true :=
    let hr := itof_inRange ha hb ⟨le_rfl, hab⟩
    le_iff.2 ⟨hr.isNaN, (inRange_iff.1 hr).2.1, hr.scaled.2⟩
  exact h.mono (hle (by omega) (by omega) (by omega)) (hle (by omega) (by omega) (by omega))

end

theorem foldl_frameVoice_sampleSum (is : List (Fin 16)) {m : Nat} {a : F × State} (hm : 12 * (m + is.length) ≤ 2 ^ 24)
    (hsum : SampleSum m a.1) (h : FilterInv a.2) :
    SampleSum (m + is.length) (is.foldl (frameVoice hw) a).1 := by
  induction is generalizing m a with
  | nil => exact hsum
  | cons i is ih =>
    rw [List.length_cons] at hm
    have hnext : SampleSum (m + 1) (frameVoice hw a i).1 := by
      obtain ⟨-, heq⟩ | ⟨-, heq⟩ := frameVoice_cases hw a i
      · obtain ⟨hcopies, hsound⟩ := h.engine.voice i
        rw [heq]
        exact hsum.add (by omega) (voiceProcess_sample_isStage h.engine.1 hcopies hsound (h.stages i) _)
      · rw [heq]
        exact hsum.skip (by omega)
    rw [List.length_cons, ← Nat.add_assoc, Nat.add_right_comm]
    exact ih (by omega) hnext (frameVoice_filterInv a i h)

/-- The 16 samples sum to at most 192 in magnitude, and `MASTER_VOL` does not enlarge the sum. -/
theorem frameOut_inRange {s : State} (h : FilterInv s) :
    InRange ⟨0xC3800000#32⟩ ⟨0x43800000#32⟩ (frameOut hw s) := by
  have hsum : SampleSum 16 (frameSum hw s).1 :=
    foldl_frameVoice_sampleSum voiceIndices (m := 0) (by decide) (inRange_self (by decide)) h
  have hvol : InUnit s.params.masterVol := h.engine.1.value .masterVol
  have hbounds : InRange (F.neg ⟨0x43800000#32⟩) ⟨0x43800000#32⟩ (frameSum hw s).1 :=
    hsum.mono (by decide +kernel) (by decide +kernel)
  exact mul_inUnit_of_symmetric (by decide) hbounds hvol

/-! ### The frames of a step -/

/-- From `s` to `t` the frame stream grows by frames with equal channels of magnitude at most 256. -/
def EmitsFinite (s t : State) : Prop :=
  ∃ new, t.frames = s.frames ++ new ∧ ∀ fr ∈ new, fr.1 = fr.2 ∧ InRange ⟨0xC3800000#32⟩ ⟨0x43800000#32⟩ fr.1

theorem EmitsFinite.refl (s : State) : EmitsFinite s s := ⟨[], (List.append_nil _).symm, nofun⟩

theorem EmitsFinite.of_frames_eq {s t u : State} (h : EmitsFinite s t) (hframes : u.frames = t.frames) : EmitsFinite s u := by
  unfold EmitsFinite
  rwa [hframes]

theorem EmitsFinite.frame {s t : State} (h : EmitsFinite s t) (ht : FilterInv t) : EmitsFinite s (frame hw t) := by
  obtain ⟨new, heq, hnew⟩ := h
  refine ⟨new ++ [(frameOut hw t, frameOut hw t)], by rw [frame_frames, heq, List.append_assoc], fun fr hfr => ?_⟩
  rcases List.mem_append.1 hfr with hold | hlast
  · exact hnew fr hold
  · rw [List.mem_singleton.1 hlast]
    exact ⟨rfl, frameOut_inRange ht⟩

/-- The invariant of a step that began in `s`. -/
structure FrameInv (s t : State) : Prop where
  filter : FilterInv t
  emits : EmitsFinite s t

theorem FrameInv.frame {s t : State} (h : FrameInv s t) : FrameInv s (frame hw t) :=
  ⟨frame_filterInv t h.filter, h.emits.frame h.filter⟩

theorem FrameInv.effect {s t : State} (h : FrameInv s t) (i : Instr) : FrameInv s (effect hw i t) := by
  by_cases hproc : ∃ k, i = .process k
  · obtain ⟨k, rfl⟩ := hproc
    exact processFrames_keeps (P := FrameInv s) hw (fun _ => FrameInv.frame) k.toNat t h
  · have hframes := (effect_streams i t).2.1 fun k hk => hproc ⟨k, hk⟩
    exact ⟨effect_filterInv i t h.filter, h.emits.of_frames_eq hframes⟩

theorem FrameInv.reject {s t : State} (h : FrameInv s t) (r : Reject) : FrameInv s (reject r t) := by
  refine ⟨⟨?_, fun i => ?_⟩, h.emits.of_frames_eq (reject_frames r t)⟩
  · exact h.filter.engine.congr (reject_params r t) (reject_sampleRate r t) (reject_voices r t)
  · rw [reject_voices]
    exact h.filter.stages i

/-- Settles O60: every command keeps both invariants and emits frames that `frameOut_inRange` bounds. -/
theorem everyEmittedFrameIsFinite : Obligations.EveryEmittedFrameIsFinite := by
  intro s t hinv hstages hstep
  rw [← eq_of_next ((step_eq s).symm.trans hstep)]
  have hstart : FrameInv s s := ⟨⟨hinv, hstages⟩, EmitsFinite.refl s⟩
  exact (stepIn_keeps (P := FrameInv s)
    (fun _ _ h => ⟨⟨h.filter.engine.congr rfl rfl rfl, h.filter.stages⟩, h.emits.of_frames_eq rfl⟩)
    (fun i _ h => h.effect i) (fun r _ h => h.reject r) hstart).emits

end Machine
end Sys2Proof
end

section
/-! A note (45_voice.md R246 to R249): what `NOTE_ON` writes in the voice it takes, and the velocity. -/

namespace Sys2Proof

namespace Machine

open F

/-! ### The voice that a note takes (R246, R266) -/

/-- The voice taken receives every global parameter and then the note. -/
theorem noteOn_voice (c : Config) (n vel : BitVec 7) (s : State) :
    (noteOn c n vel s).voices[allocate s] =
      voiceNoteOn c s.lfoRetrig n vel (broadcast c s.params s.sampleRate s.voices[allocate s]) := by
  rw [noteOn_voices]
  exact updateVoice_get_same ..

theorem noteOn_voice_other (c : Config) (n vel : BitVec 7) (s : State) {j : Fin 16} (h : j ≠ allocate s) :
    (noteOn c n vel s).voices[j] = s.voices[j] := by
  rw [noteOn_voices]
  exact updateVoice_get_other _ _ _ _ j.isLt fun heq => h (Fin.ext heq.symm)

/-- A note makes the voice it takes active and no other (R37). -/
theorem active_noteOn (c : Config) (n vel : BitVec 7) (s : State) (j : Fin 16) :
    active (noteOn c n vel s) j = (decide (j = allocate s) || active s j) := by
  by_cases h : j = allocate s
  · subst h
    rw [active, noteOn_voice, decide_eq_true rfl]
    rfl
  · rw [active, noteOn_voice_other c n vel s h, decide_eq_false h]
    rfl

theorem voiceNoteOn_lfo_phase {c : Config} (hnum : c.num = binary32) (retrig : Bool) (n vel : BitVec 7) (v : Voice) :
    (voiceNoteOn c retrig n vel v).lfo.phase = if retrig then F.zero else v.lfo.phase := by
  cases retrig
  · rfl
  · show c.num.lit .zero = F.zero
    rw [hnum]
    rfl

/-! ### `VOICE_STAT` (R36) -/

theorem regRead_voiceStat (i : Fin 16) (s : State) :
    regRead (BitVec.ofNat 8 (0x40 + i.val)) s = voiceStatWord s.voices[i] := by
  have ha : (BitVec.ofNat 8 (0x40 + i.val)).toNat = 0x40 + i.val := by
    rw [BitVec.toNat_ofNat]
    omega
  unfold regRead regReadIn
  simp only [ha]
  rw [if_neg (by omega), if_neg (by omega), if_neg (by omega), if_neg (by omega), dif_pos (by omega)]
  simp

theorem toNat_append_eq {m n : Nat} (x : BitVec m) (y : BitVec n) : (x ++ y).toNat = x.toNat * 2 ^ n + y.toNat := by
  rw [BitVec.toNat_append, ← Nat.shiftLeft_add_eq_or_of_lt y.isLt, Nat.shiftLeft_eq]

theorem voiceStatWord_toNat (v : Voice) :
    (voiceStatWord v).toNat = v.note.toNat + v.velRaw.toNat * 2 ^ 8 + v.ampEnv.stage.code.toNat * 2 ^ 16 +
      v.fltEnv.stage.code.toNat * 2 ^ 20 := by
  simp only [voiceStatWord, toNat_append_eq, BitVec.toNat_ofNat]
  omega

/-- A voice just taken reads its note, its raw velocity and the stage Attack twice. -/
theorem voiceStatWord_voiceNoteOn (c : Config) (retrig : Bool) (n vel : BitVec 7) (v : Voice) :
    (voiceStatWord (voiceNoteOn c retrig n vel v)).toNat = n.toNat + vel.toNat * 2 ^ 8 + 0x110000 := by
  rw [voiceStatWord_toNat]
  show n.toNat + vel.toNat * 2 ^ 8 + 1 * 2 ^ 16 + 1 * 2 ^ 20 = _
  omega

/-- Settles O29: the voice taken is `noteOn_voice`, of which each field is read off; its copies are those of the broadcast. -/
theorem noteOnStartsTheVoice : Obligations.NoteOnStartsTheVoice := by
  intro n vel s
  refine ⟨noteOn hw n vel s, exec_eq _ s, ?_⟩
  dsimp only
  rw [regRead_voiceStat, noteOn_voice, voiceStatWord_voiceNoteOn]
  have hcopies (h : InDomain s) := voiceCopies_voiceNoteOn s.lfoRetrig n vel (voiceCopies_broadcast h s.voices[allocate s])
  exact ⟨rfl, rfl, rfl, rfl, rfl, rfl, rfl, voiceNoteOn_lfo_phase rfl .., rfl, rfl, rfl, rfl, rfl, rfl, rfl, rfl, rfl, rfl,
    rfl, rfl, rfl, rfl, hcopies, rfl, active_noteOn hw n vel s, rfl⟩

/-! ### The velocity (R248) -/

theorem noteVel_zero : noteVel hw 0#7 = F.zero := by decide +kernel

/-- Settles O48: the quotient is the definition at `binary32`, its range is `noteVel_inUnit`, and a note makes its voice
active whatever the velocity. -/
theorem velocityIsNormalized : Obligations.VelocityIsNormalized := by
  refine ⟨fun v => ⟨rfl, noteVel_inUnit v⟩, by decide +kernel, by decide +kernel, by decide +kernel, noteVel_zero,
    fun c v hnum => ?_, fun n s => ⟨noteOn hw n 0#7 s, exec_eq _ s, ?_, ?_⟩⟩
  · rw [noteVel, hnum]
    rfl
  · rw [active_noteOn, decide_eq_true rfl, Bool.true_or]
  · rw [noteOn_voice]
    exact noteVel_zero

end Machine
end Sys2Proof
end

section
/-! One sample of a voice (45_voice.md R251 to R255): a voice without Noise does not see the draws, so nothing of another voice
reaches it (46_voice_pool.md R272); the formulas in the default format, and what the routing computes on given values. -/

namespace Sys2Proof

namespace F

/-! ### Zero terms and factors (R13) -/

theorem isFinite_of_mag_zero {x : F} (h : x.mag = 0) : x.isFinite = true := (mag_lt_inf_iff x).2 (by rw [h]; positivity)

/-- A number other than a zero is fixed by its value. -/
theorem eq_of_scaled_eq {x y : F} (hx : x.isNaN = false) (hy : y.isNaN = false) (h : x.scaled = y.scaled) (h0 : y.mag ≠ 0) :
    x = y := by
  have hmag : x.mag = y.mag := by rw [← scaled_natAbs, ← scaled_natAbs, h]
  refine eq_of_sign_mag hx hy ?_ hmag
  unfold scaled at h
  cases hxs : x.sign <;> cases hys : y.sign <;> simp only [hxs, hys, Bool.false_eq_true, if_true, if_false] at h ⊢ <;> omega

theorem add_of_mag_zero {a b : F} (ha : a.isFinite = true) (ha0 : a.mag ≠ 0) (hb : b.mag = 0) : a.add b = a := by
  have hbf := isFinite_of_mag_zero hb
  have hnan := isFinite_not_isNaN ha
  have hsum : a.scaled + b.scaled = a.scaled := by rw [scaled_of_mag_zero hb, add_zero]
  exact eq_of_scaled_eq (add_not_isNaN ha hbf) hnan
    (le_antisymm (add_scaled_le ha hbf a hnan hsum.le) (le_add_scaled ha hbf a hnan hsum.ge)) ha0

theorem mul_mag_zero {a b : F} (ha : a.isFinite = true) (hb : b.isFinite = true) (h : a.mag = 0 ∨ b.mag = 0) :
    (a.mul b).mag = 0 := by
  rw [mul_finite ha hb, Nat.mul_eq_zero.2 h]
  exact mag_ofRatio_eq _ 0 unit unit_pos zero (by decide) (by decide)

end F

namespace Machine

open F

/-! ### A voice and the draws (R156, R235, R272) -/

section
variable {α : Type}

/-- A voice without Noise is processed alike whatever the draw count. -/
theorem voiceProcess_draw_irrelevant (c : ConfigOf α) {v : VoiceOf α} (h : NoNoise v) (n m : Nat) :
    (voiceProcess c n v).2.1 = (voiceProcess c m v).2.1 := by
  obtain ⟨hlfo, hosc1, hosc2⟩ := h
  have hosc {o : OscOf α} (ho : o.kind ≠ .noise) (n₁ n₂ : Nat) (f : α) :=
    shape_draw_irrelevant c n₁ n₂ o.kind o.phase (c.num.div (clampFreq c.num o.fs f) o.fs) o.pw o.detune ho
  simp only [voiceProcess, lfoProcess, oscProcess, oscSetFrequency, naiveShape_draw_irrelevant c n m _ _ hlfo,
    hosc hosc1 (n + drawsOf v.lfo.kind) (m + drawsOf v.lfo.kind),
    hosc hosc2 (n + drawsOf v.lfo.kind + drawsOf v.osc1.kind) (m + drawsOf v.lfo.kind + drawsOf v.osc1.kind)]

theorem noNoise_voiceProcess (c : ConfigOf α) (n : Nat) {v : VoiceOf α} (h : NoNoise v) : NoNoise (voiceProcess c n v).2.1 := h

/-- What one turn of the loop does to voice `j`. -/
theorem frameVoice_voice (c : ConfigOf α) (a : α × State.Of α) (i j : Fin 16) :
    (frameVoice c a i).2.voices[j] =
      if i = j ∧ voiceIsActive a.2.voices[j] then (voiceProcess c a.2.draws a.2.voices[j]).2.1 else a.2.voices[j] := by
  obtain ⟨hactive, heq⟩ | ⟨hactive, heq⟩ := frameVoice_cases c a i <;> rw [heq]
  · by_cases hij : i = j
    · subst hij
      rw [if_pos ⟨rfl, hactive⟩]
      exact Vector.getElem_set_self _
    · rw [if_neg fun h => hij h.1]
      exact Vector.getElem_set_ne i.isLt j.isLt fun h => hij (Fin.ext h)
  · rw [if_neg]
    rintro ⟨rfl, h⟩
    exact Bool.false_ne_true (hactive.symm.trans h)

/-- Voice `j` is the same in both states and has no Noise waveform. -/
structure SameQuietVoice (j : Fin 16) (s t : State.Of α) : Prop where
  same : s.voices[j] = t.voices[j]
  quiet : NoNoise t.voices[j]

theorem frameVoice_sameQuietVoice (c : ConfigOf α) {j : Fin 16} {a b : α × State.Of α} (h : SameQuietVoice j a.2 b.2) (i : Fin 16) :
    SameQuietVoice j (frameVoice c a i).2 (frameVoice c b i).2 := by
  obtain ⟨hsame, hquiet⟩ := h
  constructor
  · rw [frameVoice_voice, frameVoice_voice, hsame, voiceProcess_draw_irrelevant c hquiet a.2.draws b.2.draws]
  · rw [frameVoice_voice]
    split
    · exact noNoise_voiceProcess c _ hquiet
    · exact hquiet

theorem frame_sameQuietVoice (c : ConfigOf α) {j : Fin 16} {s t : State.Of α} (h : SameQuietVoice j s t) :
    SameQuietVoice j (frame c s) (frame c t) := by
  have hsum : SameQuietVoice j (frameSum c s).2 (frameSum c t).2 :=
    List.foldl_rel (r := fun a b : α × State.Of α => SameQuietVoice j a.2 b.2) h
      fun i _ _ _ hab => frameVoice_sameQuietVoice c hab i
  exact ⟨by simpa only [frame_voices] using hsum.same, by simpa only [frame_voices] using hsum.quiet⟩

theorem processFrames_sameQuietVoice (c : ConfigOf α) {j : Fin 16} (k : Nat) {s t : State.Of α} (h : SameQuietVoice j s t) :
    SameQuietVoice j (processFrames c k s) (processFrames c k t) := by
  induction k generalizing s t with
  | zero => exact h
  | succ k ih => exact ih (frame_sameQuietVoice c h)

end

/-- Settles O37: the loop keeps voice `j` the same in two runs, whatever draw counts it is reached with. -/
theorem voicesDoNotInteract : Obligations.VoicesDoNotInteract := by
  intro k j s₁ s₂ hquiet hsame
  have h : SameQuietVoice j s₁ s₂ := ⟨hsame, (hquiet j).2⟩
  exact ⟨_, _, rfl, rfl, (processFrames_sameQuietVoice hw k.toNat h).same⟩

/-! ### The formulas in the default format (R251 to R254) -/

section
variable {c : Config} (hnum : c.num = binary32)
include hnum

theorem lfoProcess_eq (n : Nat) (l : Lfo) :
    lfoProcess c n l =
      (naiveShape c n l.kind l.phase, { l with phase := (l.phase.add (l.rate.div l.fs)).wrap },
        if l.kind = .noise then n + 1 else n) := by
  rw [lfoProcess, drawCount_eq, hnum]
  rfl

theorem oscProcess_setFrequency_eq (n : Nat) (o : Osc) (f : F) :
    oscProcess c n (oscSetFrequency binary32 o f) =
      let freq := f.clamp F.zero (o.fs.mul F.half)
      (shape c n o.kind o.phase (freq.div o.fs) o.pw o.detune,
        { o with freq := freq, phase := (o.phase.add (freq.div o.fs)).wrap },
        if o.kind = .noise then n + 1 else n) := by
  rw [oscProcess, drawCount_eq, hnum]
  rfl

theorem wtProcess_setFrequency_eq (w : Wt) (f : F) :
    wtProcess c (wtSetFrequency binary32 w f) =
      let freq := f.clamp F.zero (w.fs.mul F.half)
      (wtRead c w.table w.morph w.phase,
        { w with freq := freq, phase := (w.phase.add (freq.div w.fs)).wrap }) := by
  rw [wtProcess, hnum]
  rfl

end

theorem pitchMod_eq (v : Voice) (l : F) :
    pitchMod binary32 v l = F.one.add ((l.mul v.lfoToPitch).mul Config.pitchDepth) := rfl

theorem crossFade_eq (a b x : F) : crossFade binary32 a b x = (a.mul (F.one.sub x)).add (b.mul x) := rfl

theorem modCutoff_eq (v : Voice) (l fe : F) :
    modCutoff binary32 v l fe = v.baseCutoff.mul (F.one.add
      (((fe.mul v.envAmt).add ((l.mul v.lfoToFlt).mul Config.lfoFltDepth)).mul Config.cutModScale)) := rfl

theorem fltSetCutoff_eq (f : Flt) (x : F) :
    fltSetCutoff binary32 f x = { f with cutoff := x.clamp Config.cutMin Config.cutMax } := rfl

/-! ### The routing on given values (R252, R254, R255) -/

/-- An LFO routed with amount 0 contributes a zero. -/
theorem routed_zero_mag {l d : F} (hl : IsBipolar l) (hd : d.isFinite = true) : ((l.mul F.zero).mul d).mag = 0 := by
  have hrouted : (l.mul F.zero).mag = 0 := mul_mag_zero (hl.isFinite (by decide)) (by decide) (.inr rfl)
  exact mul_mag_zero (isFinite_of_mag_zero hrouted) hd (.inl hrouted)

theorem pitchMod_of_unrouted {v : Voice} {l : F} (hl : IsBipolar l) (hv : v.lfoToPitch = F.zero) :
    pitchMod binary32 v l = F.one := by
  rw [pitchMod_eq, hv]
  exact add_of_mag_zero (by decide) (by decide) (routed_zero_mag hl (by decide))

/-- Without LFO routing only the filter envelope moves the cutoff. -/
theorem modCutoff_of_unrouted {v : Voice} {l fe : F} (hl : IsBipolar l) (hv : v.lfoToFlt = F.zero)
    (hfin : (fe.mul v.envAmt).isFinite = true) (h0 : (fe.mul v.envAmt).mag ≠ 0) :
    modCutoff binary32 v l fe = v.baseCutoff.mul (F.one.add ((fe.mul v.envAmt).mul Config.cutModScale)) := by
  rw [modCutoff_eq, hv, add_of_mag_zero hfin h0 (routed_zero_mag hl (by decide))]

/-- The release arm that ends in Idle ends at level 0 (R218). -/
theorem envNext_level_of_release_idle {e : Env} (h : e.stage = .release) (hidle : (envNext binary32 e).stage = .idle) :
    (envNext binary32 e).level = F.zero := by
  rw [envNext_of_release h] at hidle ⊢
  rcases envRelease_cases binary32 e with heq | heq <;> rw [heq] at hidle ⊢
  · rfl
  · exact absurd (h.symm.trans hidle) (by decide)

/-- Settles O49: the formulas of the components at `binary32`, and a zero amount or level makes its whole term a zero. -/
theorem voiceRoutingValues : Obligations.VoiceRoutingValues := by
  refine ⟨fun c n v hnum => ?_, fun v l hl => ⟨pitchMod_of_unrouted hl, pitchMod_inRange hl⟩,
    fun v l hl hbase hamt hflt => ?_, fun c n v hnum hrel hidle hvel hs3 => ?_⟩
  · simp only [voiceProcess, envProcess, hnum, lfoProcess_eq hnum, oscProcess_setFrequency_eq hnum,
      wtProcess_setFrequency_eq hnum, pitchMod_eq, crossFade_eq, modCutoff_eq, fltSetCutoff_eq, wrap_eq, binary32_mul]
    rfl
  · rw [modCutoff_of_unrouted hl hflt (by rw [hamt]; decide) (by rw [hamt]; decide +kernel), hbase, hamt]
    decide +kernel
  · have hgain : (F.zero.mul v.vel).mag = 0 := mul_mag_zero (by decide) hvel.isFinite (.inl rfl)
    rw [voiceProcess_sample hnum, envNext_level_of_release_idle hrel hidle]
    exact mul_mag_zero hs3 (isFinite_of_mag_zero hgain) (.inr hgain)

end Machine
end Sys2Proof
end

section
/-! The base frequency of a note (45_voice.md R247): rounding is monotone, so a note lies between the octaves around it and not
above any higher note; and a note of whole octaves is 440 times a power of two, which binary32 gives exactly. -/

namespace Sys2Proof

namespace F

/-! ### Monotone operations (R13) -/

theorem mag_ofRatio_mono (p q : Bool) {m n d : Nat} (hd : 0 < d) (h : m ≤ n) : (ofRatio p m d).mag ≤ (ofRatio q n d).mag := by
  have hle (k : Nat) := magBits_le_infBits k d
  rw [ofRatio, ofRatio, mag_build _ _ (hle _), mag_build _ _ (hle _), magOfBits_le_iff (hle _) (hle _)]
  exact magBits_mono _ _ _ _ hd hd (Nat.mul_le_mul_right d h)

/-- Rounding a signed fraction is monotone. -/
theorem scaled_ofRatio_mono {p q : Bool} {y z : Int} {d : Nat} (hd : 0 < d)
    (hy : y = if p then -(y.natAbs : Int) else y.natAbs) (hz : z = if q then -(z.natAbs : Int) else z.natAbs) (h : y ≤ z) :
    (ofRatio p y.natAbs d).scaled ≤ (ofRatio q z.natAbs d).scaled := by
  rw [scaled_ofRatio, scaled_ofRatio]
  cases p <;> cases q <;> simp only [Bool.false_eq_true, if_true, if_false] at hy hz ⊢
  · exact_mod_cast mag_ofRatio_mono false false hd (by omega)
  · have hzero (r : Bool) : (ofRatio r 0 d).mag = 0 := mag_ofRatio_eq r 0 d hd zero (by decide) (Nat.zero_mul d).symm
    rw [show y.natAbs = 0 by omega, show z.natAbs = 0 by omega, hzero, hzero]
    exact le_rfl
  · omega
  · exact neg_le_neg (by exact_mod_cast mag_ofRatio_mono true true hd (by omega))

section
variable {a b c : F} (ha : a.isFinite = true) (hb : b.isFinite = true) (hc : c.isFinite = true)
include ha hb hc

theorem mul_le_mul_of_scaled_le (ha0 : 0 ≤ a.scaled) (h : b.scaled ≤ c.scaled) : (a.mul b).le (a.mul c) = true := by
  refine le_iff.2 ⟨mul_not_isNaN ha hb, mul_not_isNaN ha hc, ?_⟩
  rw [mul_eq_ofRatio ha hb, mul_eq_ofRatio ha hc]
  exact scaled_ofRatio_mono unit_pos (mul_sign_form a b) (mul_sign_form a c) (mul_le_mul_of_nonneg_left h ha0)

theorem div_le_div_of_scaled_le (hc0 : 0 < c.scaled) (h : a.scaled ≤ b.scaled) : (a.div c).le (b.div c) = true := by
  have hpos : 0 < c.mag := by have := mag_of_scaled_pos hc0; omega
  refine le_iff.2 ⟨div_not_isNaN ha hc hc0, div_not_isNaN hb hc hc0, ?_⟩
  rw [div_eq_ofRatio ha hc hc0, div_eq_ofRatio hb hc hc0]
  exact scaled_ofRatio_mono hpos (div_sign_form a) (div_sign_form b) (mul_le_mul_of_nonneg_right h (Int.natCast_nonneg _))

end
end F

namespace Machine

open F

/-! ### The octave of a note -/

/-- The number of octaves from A4 to a note, rounded (R247). -/
def noteOctave (n : BitVec 7) : F := (itof ((n.toNat : Int) - 69)).div F.twelve

/-- R247 in the default format. -/
theorem noteFreq_eq {c : Config} (hnum : c.num = binary32) (n : BitVec 7) :
    noteFreq c n = Config.a4Hz.mul (c.fexp2 (noteOctave n)) := by
  rw [noteFreq, hnum]
  rfl

theorem noteOctave_mono {m n : BitVec 7} (h : m.toNat ≤ n.toNat) : (noteOctave m).le (noteOctave n) = true := by
  have hdist := itof_inRange (a := (m.toNat : Int) - 69) (b := (n.toNat : Int) - 69) (n := (n.toNat : Int) - 69)
    (by omega) (by omega) (by omega)
  exact div_le_div_of_scaled_le (itof_isFinite (by omega)) (itof_isFinite (by omega)) (by decide) (by decide +kernel)
    hdist.scaled.1

/-- A note between two whole octaves, `a` and `b`, has its rounded octave between them. -/
theorem noteOctave_between {n : BitVec 7} {a b : Int} (ha : a.natAbs ≤ 127) (hb : b.natAbs ≤ 127)
    (h : 12 * a ≤ (n.toNat : Int) - 69 ∧ (n.toNat : Int) - 69 ≤ 12 * b) : InRange (itof a) (itof b) (noteOctave n) := by
  have hfin {k : Int} (hk : k.natAbs ≤ 127) : (itof k).isFinite = true := itof_isFinite (by omega)
  have hdist : ((n.toNat : Int) - 69).natAbs ≤ 127 := by omega
  have htwelve : F.twelve.scaled = 12 * (unit : Int) := by decide +kernel
  have hval {k : Int} (hk : k.natAbs ≤ 127) : (itof k).scaled * F.twelve.scaled = 12 * k * (unit : Int) * unit := by
    rw [scaled_itof_of_le (by omega), htwelve]
    ring
  have hnote := scaled_itof_of_le (n := (n.toNat : Int) - 69) (by omega)
  have hscale {x y : Int} (hxy : x ≤ y) : x * (unit : Int) * unit ≤ y * unit * unit :=
    mul_le_mul_of_nonneg_right (mul_le_mul_of_nonneg_right hxy unit_int_pos.le) unit_int_pos.le
  have hpos : 0 < F.twelve.scaled := by decide +kernel
  have hnan {k : Int} (hk : k.natAbs ≤ 127) := isFinite_not_isNaN (hfin hk)
  refine inRange_iff.2 ⟨hnan ha, hnan hb, div_not_isNaN (hfin hdist) (by decide) hpos,
    le_div_scaled (hfin hdist) (by decide) hpos _ (hnan ha) ?_, div_scaled_le (hfin hdist) (by decide) hpos _ (hnan hb) ?_⟩
  · rw [hval ha, hnote]
    exact hscale h.1
  · rw [hval hb, hnote]
    exact hscale h.2

/-! ### The base frequency of a note -/

theorem pow2_isFinite {k : Int} (h : k ≤ 127) : (pow2 k).isFinite = true := by
  have hlt : powNumber k < infBits := by unfold powNumber infBits; omega
  have hlow : (pow2 k).low31 = powNumber k := low31_build false _ hlt.le
  rw [isFinite_iff, hlow]
  exact hlt

/-- The machine's power of two at a note's octave. -/
theorem fexp2_noteOctave_between {n : BitVec 7} {a b : Int} (ha : a.natAbs ≤ 126) (hb : b.natAbs ≤ 126)
    (h : 12 * a ≤ (n.toNat : Int) - 69 ∧ (n.toNat : Int) - 69 ≤ 12 * b) :
    InRange (pow2 a) (pow2 b) (hw.fexp2 (noteOctave n)) := by
  obtain ⟨-, -, -, -, -, -, -, -, hint, -, hmono, -⟩ := machineFunctionsHaveTheNamedProperties
  have hoct := noteOctave_between (n := n) (a := a) (b := b) (by omega) (by omega) h
  obtain ⟨hlo, hhi, hnan, hlos, hhis⟩ := inRange_iff.1 hoct
  have hleft := hmono _ _ (le_iff.2 ⟨hlo, hnan, hlos⟩)
  have hright := hmono _ _ (le_iff.2 ⟨hnan, hhi, hhis⟩)
  rw [hint a (by omega) (by omega)] at hleft
  rw [hint b (by omega) (by omega)] at hright
  obtain ⟨hlo', hnan', hlos'⟩ := le_iff.1 hleft
  obtain ⟨-, hhi', hhis'⟩ := le_iff.1 hright
  exact inRange_iff.2 ⟨hlo', hhi', hnan', hlos', hhis'⟩

theorem fexp2_noteOctave_isFinite (n : BitVec 7) : (hw.fexp2 (noteOctave n)).isFinite = true :=
  (fexp2_noteOctave_between (n := n) (a := -6) (b := 5) (by decide) (by decide) (by omega)).isFinite (by decide)

/-- A note between two whole octaves sounds between them. -/
theorem noteFreq_between {n : BitVec 7} {a b : Int} (ha : a.natAbs ≤ 126) (hb : b.natAbs ≤ 126)
    (h : 12 * a ≤ (n.toNat : Int) - 69 ∧ (n.toNat : Int) - 69 ≤ 12 * b) :
    InRange (Config.a4Hz.mul (pow2 a)) (Config.a4Hz.mul (pow2 b)) (noteFreq hw n) := by
  have hpow := (fexp2_noteOctave_between ha hb h).scaled
  have hfin := fexp2_noteOctave_isFinite n
  have hmul {x y : F} (hx : x.isFinite = true) (hy : y.isFinite = true) (hxy : x.scaled ≤ y.scaled) :=
    mul_le_mul_of_scaled_le (a := Config.a4Hz) (by decide) hx hy (by decide +kernel) hxy
  rw [noteFreq_eq rfl]
  exact Bool.and_eq_true_iff.2 ⟨hmul (pow2_isFinite (by omega)) hfin hpow.1, hmul hfin (pow2_isFinite (by omega)) hpow.2⟩

theorem noteFreq_mono {m n : BitVec 7} (h : m.toNat ≤ n.toNat) : (noteFreq hw m).le (noteFreq hw n) = true := by
  obtain ⟨-, -, -, -, -, -, -, -, -, -, hmono, -⟩ := machineFunctionsHaveTheNamedProperties
  rw [noteFreq_eq rfl, noteFreq_eq rfl]
  exact mul_le_mul_of_scaled_le (by decide) (fexp2_noteOctave_isFinite m) (fexp2_noteOctave_isFinite n) (by decide +kernel)
    (le_iff.1 (hmono _ _ (noteOctave_mono h))).2.2

/-! ### Whole octaves -/

/-! The notes a whole number of octaves from A4 lie 5 octaves below it to 4 above. -/

theorem itof_div_twelve : ∀ k : Int, -5 ≤ k → k ≤ 4 → (itof (12 * k)).div F.twelve = itof k := by decide +kernel

theorem a4Hz_mul_pow2_scaled : ∀ k : Int, -5 ≤ k → k ≤ 4 →
    (Config.a4Hz.mul (pow2 k)).scaled * 2 ^ 12 = 440 * 2 ^ (12 + k).toNat * (unit : Int) := by decide +kernel

/-- With `EXP2_INT`, a note `k` whole octaves from A4 has 440 times that power of two. -/
theorem noteFreq_of_octave {c : Config} (hnum : c.num = binary32) (hint : Exp2Int c) {n : BitVec 7} {k : Int}
    (h : (n.toNat : Int) - 69 = 12 * k) : noteFreq c n = Config.a4Hz.mul (pow2 k) := by
  rw [noteFreq_eq hnum, noteOctave, h, itof_div_twelve k (by omega) (by omega), hint k (by omega) (by omega)]
  rfl

/-- Settles O47: whole octaves by `noteFreq_of_octave`, the bounds by `noteFreq_between` and the order by `noteFreq_mono`. -/
theorem noteFrequencies : Obligations.NoteFrequencies := by
  refine ⟨fun c n hnum => noteFreq_eq hnum n, fun c hnum hint => ?_, fun n => ⟨?_, ?_⟩, fun m n => noteFreq_mono⟩
  · have hoct {n : BitVec 7} {k : Int} (h : (n.toNat : Int) - 69 = 12 * k) := noteFreq_of_octave hnum hint h
    refine ⟨(hoct (k := 0) (by decide)).trans (by decide +kernel), (hoct (k := 1) (by decide)).trans (by decide +kernel),
      (hoct (k := -1) (by decide)).trans (by decide +kernel), (hoct (k := -5) (by decide)).trans (by decide +kernel),
      fun n hn => ?_⟩
    have hk : (n.toNat : Int) - 69 = 12 * (((n.toNat : Int) - 69) / 12) := by omega
    rw [hoct hk]
    exact a4Hz_mul_pow2_scaled _ (by omega) (by omega)
  · exact noteFreq_between (by omega) (by omega) (by omega)
  · have hall := noteFreq_between (n := n) (a := -6) (b := 5) (by decide) (by decide) (by omega)
    exact hall.mono (by decide +kernel) (by decide +kernel)

end Machine
end Sys2Proof
end

section
/-! The bio-reactive cutoff (46_voice_pool.md R275): `BIO_HRV` is the setter of `FLT_CUTOFF` with a mapped operand. -/

namespace Sys2Proof

namespace Machine

open F

theorem decode_bioHrv (d : Word) :
    decode (writeWord 0x03#8 d) = if (F.mk d).isNaN then .error .nanOperand else .ok (.bioHrv ⟨d⟩) :=
  decode_writeWord _ _

/-- The register and every voice receive the map of the clamped operand, clamped to the register's domain (R275, R290). -/
theorem effect_bioHrv {c : Config} (hnum : c.num = binary32) {val : F} (hval : val.isNaN = false) (s : State) :
    effect c (.bioHrv val) s =
      setParam ((c.bioCutBase.add ((val.clamp F.zero F.one).mul c.bioCutSpan)).clamp Config.cutMin Config.cutMax)
        RealParam.fltCutoff.store RealParam.fltCutoff.copy s := by
  show bioHrv c val s = _
  rw [bioHrv, withReal_real _ _ _ _ _ hval, bioCutoff, hnum]
  rfl

theorem effect_bioHrv_of_isNaN (c : Config) {val : F} (hval : val.isNaN = true) (s : State) :
    effect c (.bioHrv val) s = { s with cmdErr := true } := by
  show bioHrv c val s = _
  rw [bioHrv, withReal_nan _ _ _ _ _ hval]

/-- The frame of a setter (R290). -/
theorem setParam_eq {β : Type} (x : β) (store : Params → β → Params) (copy : Voice → β → Voice) (s : State) :
    setParam x store copy s = { s with params := store s.params x, voices := (setParam x store copy s).voices } ∧
      ∀ j : Fin 16, (setParam x store copy s).voices[j] = copy s.voices[j] x := by
  refine ⟨rfl, fun j => ?_⟩
  rw [setParam_voices, Fin.getElem_fin, mapVoices_get]
  rfl

/-- The default map sends [0, 1] into [200, 8000], before its clamp. -/
theorem bioMap_inRange {val : F} (hval : val.isNaN = false) :
    InRange ⟨0x43480000#32⟩ ⟨0x45FA0000#32⟩
      (Config.bioCutBaseDefault.add ((val.clamp F.zero F.one).mul Config.bioCutSpanDefault)) := by
  have hunit : InUnit (val.clamp F.zero F.one) := clamp_inRange hval (by decide)
  have hspan : InRange F.zero Config.bioCutSpanDefault ((val.clamp F.zero F.one).mul Config.bioCutSpanDefault) :=
    mul_inRange hunit (inRange_self (by decide)) (by decide) (by decide) (by decide) (by decide +kernel)
  exact add_inRange (inRange_self (by decide)) hspan (by decide) (by decide) (by decide) (by decide +kernel)

theorem bioMap_clamp {val : F} (hval : val.isNaN = false) :
    (Config.bioCutBaseDefault.add ((val.clamp F.zero F.one).mul Config.bioCutSpanDefault)).clamp Config.cutMin Config.cutMax =
      Config.bioCutBaseDefault.add ((val.clamp F.zero F.one).mul Config.bioCutSpanDefault) :=
  clamp_of_within ((bioMap_inRange hval).mono (by decide +kernel) (by decide +kernel))

/-- Settles O20: `BIO_HRV` is a setter with the mapped value (`effect_bioHrv`), which lies in [200, 8000] before its clamp. -/
theorem bioHrvSetsTheCutoff : Obligations.BioHrvSetsTheCutoff := by
  refine ⟨decode_bioHrv, fun val s hval => ⟨_, (exec_eq _ s).trans (congrArg _ (effect_bioHrv rfl hval s)), ?_⟩,
    fun val s hval => ?_, fun d s hd => ?_, fun c hnum val s => ⟨fun hval => ?_, fun hval => effect_bioHrv_of_isNaN c hval s⟩⟩
  · obtain ⟨hframe, hvoices⟩ := setParam_eq _ RealParam.fltCutoff.store RealParam.fltCutoff.copy s
    refine ⟨hframe, ?_, ?_, hvoices⟩
    · exact (bioMap_clamp hval).symm ▸ bioMap_inRange hval
    · rintro rfl
      decide +kernel
  · rw [exec_eq, effect_bioHrv_of_isNaN hw hval]
  · exact runWord_of_error ((decode_bioHrv d).trans (if_pos hd)) s
  · dsimp only
    rw [effect_bioHrv hnum hval]
    exact setParam_eq _ _ _ s

end Machine
end Sys2Proof
end

section
/-! Notes (46_voice_pool.md R266 to R270): the voice that `NOTE_ON` takes, the broadcast it gives that voice, and the voices that
`NOTE_OFF` releases. -/

namespace Sys2Proof

namespace Machine

/-- Settles O28: the voice taken is the first inactive one (`allocate_cases`), and only that voice is written. -/
theorem noteOnTakesTheFirstInactiveVoice : Obligations.NoteOnTakesTheFirstInactiveVoice := by
  intro n vel s
  refine ⟨noteOn hw n vel s, allocate s, exec_eq _ s, rfl, allocate_cases s, ?_, ?_,
    fun j hj => noteOn_voice_other hw n vel s hj⟩
  · rw [active_noteOn, decide_eq_true rfl, Bool.true_or]
  · rw [noteOn_voice]
    rfl

/-! ### A voice is its sound and its copies (R38, R44, R46) -/

theorem osc_eq_of_copies {o u : Osc} {kind : WaveformKind} {pw detune fs : F} (ho : OscCopies o kind pw detune fs)
    (hu : OscCopies u kind pw detune fs) (hphase : o.phase = u.phase) (hfreq : o.freq = u.freq) : o = u := by
  cases o
  cases u
  simp_all [OscCopies]

theorem env_eq_of_copies {e u : Env} {a d x r fs : F} (he : EnvCopies e a d x r fs) (hu : EnvCopies u a d x r fs)
    (hstage : e.stage = u.stage) (hlevel : e.level = u.level) (hrel : e.relStart = u.relStart) : e = u := by
  cases e
  cases u
  simp_all [EnvCopies]

/-- Two voices with the same sound, whose copies equal the same registers, are one. -/
theorem voice_eq_of_copies {p : Params} {fs : F} {v w : Voice} (hcopiesV : VoiceCopies p fs v)
    (hcopiesW : VoiceCopies p fs w) (hsound : soundState v = soundState w) : v = w := by
  simp only [soundState, Prod.mk.injEq] at hsound
  obtain ⟨⟨hnote, hvelRaw, hvel, hbase⟩, ⟨hphase1, hphase2, hphaseWt, hphaseLfo⟩, ⟨hfreq1, hfreq2, hfreqWt, hcutoff⟩,
    hstages, ⟨hstageA, hlevelA, hrelA⟩, ⟨hstageF, hlevelF, hrelF⟩⟩ := hsound
  obtain ⟨hv1, hv2, hvWt, hvFlt, hvAmp, hvFenv, hvLfo, hvRest⟩ := hcopiesV
  obtain ⟨hw1, hw2, hwWt, hwFlt, hwAmp, hwFenv, hwLfo, hwRest⟩ := hcopiesW
  have hosc1 := osc_eq_of_copies hv1 hw1 hphase1 hfreq1
  have hosc2 := osc_eq_of_copies hv2 hw2 hphase2 hfreq2
  have hamp := env_eq_of_copies hvAmp hwAmp hstageA hlevelA hrelA
  have hfenv := env_eq_of_copies hvFenv hwFenv hstageF hlevelF hrelF
  obtain ⟨_, _, _, _, _, _, ⟨_, _, _, _, _⟩, ⟨_, _, _, _, _, _, _, _⟩, _, _, ⟨_, _, _, _⟩, _, _, _, _, _, _⟩ := v
  obtain ⟨_, _, _, _, _, _, ⟨_, _, _, _, _⟩, ⟨_, _, _, _, _, _, _, _⟩, _, _, ⟨_, _, _, _⟩, _, _, _, _, _, _⟩ := w
  simp_all

/-- Settles O30: `Broadcast` sets every copy and no sound, and both together make a voice. -/
theorem broadcastGivesEveryGlobalParameter : Obligations.BroadcastGivesEveryGlobalParameter := by
  intro s v hdomain
  have hcopies := voiceCopies_broadcast hdomain v
  have hsound := soundState_broadcast s.params s.sampleRate v
  exact ⟨hcopies, hsound, fun hv => voice_eq_of_copies hcopies hv hsound⟩

/-! ### The voices that `NOTE_OFF` releases (R213, R250, R270) -/

section
variable {α : Type}

theorem envIsActive_envNoteOff (e : EnvOf α) : envIsActive (envNoteOff e) = envIsActive e := by
  unfold envNoteOff
  split
  · rfl
  · next h => simp [envIsActive, h]

theorem voiceNoteOff_of_active {v : VoiceOf α} (h : voiceIsActive v = true) :
    voiceNoteOff v =
      { v with
        ampEnv := { v.ampEnv with relStart := v.ampEnv.level, stage := .release }
        fltEnv := if v.fltEnv.stage = .idle then v.fltEnv
          else { v.fltEnv with relStart := v.fltEnv.level, stage := .release } } := by
  have hstage : v.ampEnv.stage ≠ .idle := of_decide_eq_true h
  rw [voiceNoteOff, envNoteOff, if_neg hstage, envNoteOff]

theorem releaseIfNote_of_match {n : BitVec 7} {v : VoiceOf α} (h : voiceIsActive v = true ∧ v.note = n) :
    releaseIfNote n v = voiceNoteOff v := by
  simp [releaseIfNote, h]

theorem releaseIfNote_of_not_match {n : BitVec 7} {v : VoiceOf α} (h : ¬ (voiceIsActive v = true ∧ v.note = n)) :
    releaseIfNote n v = v := by
  simp [releaseIfNote, h]

theorem voiceIsActive_releaseIfNote (n : BitVec 7) (v : VoiceOf α) :
    voiceIsActive (releaseIfNote n v) = voiceIsActive v := by
  unfold releaseIfNote
  split
  · exact envIsActive_envNoteOff v.ampEnv
  · rfl

theorem noteOff_voice (n : BitVec 7) (s : State.Of α) (j : Fin 16) :
    (noteOff n s).voices[j] = releaseIfNote n s.voices[j] := by
  rw [noteOff_voices, Fin.getElem_fin, mapVoices_get]
  rfl

theorem active_noteOff (n : BitVec 7) (s : State.Of α) (j : Fin 16) : active (noteOff n s) j = active s j := by
  rw [active, noteOff_voice, voiceIsActive_releaseIfNote, active]

end

/-- Settles O31: a matching voice is `voiceNoteOff` of an active one, any other is left, and a released voice is active. -/
theorem noteOffReleasesEveryMatchingVoice : Obligations.NoteOffReleasesEveryMatchingVoice := by
  intro n s
  refine ⟨noteOff n s, exec_eq _ s, rfl, fun j => ⟨active_noteOff n s j, fun h => ?_, fun h => ?_⟩⟩
  · rw [noteOff_voice, releaseIfNote_of_match h]
    exact voiceNoteOff_of_active h.1
  · rw [noteOff_voice, releaseIfNote_of_not_match h]

end Machine
end Sys2Proof
end

section
/-! `PROCESS` (46_voice_pool.md R271 to R273): the frames it emits, the loop over the voices behind one frame, and the voices it
skips. -/

namespace Sys2Proof

namespace Machine

variable {α : Type}

/-! ### The frames of a run (R271) -/

/-- The frame stream from `s` to `t` grows by `n` frames with equal channels. -/
def EmitsPairs (n : Nat) (s t : State.Of α) : Prop :=
  ∃ new, t.frames = s.frames ++ new ∧ new.length = n ∧ ∀ fr ∈ new, fr.1 = fr.2

theorem processFrames_emitsPairs (c : ConfigOf α) (n : Nat) (s : State.Of α) : EmitsPairs n s (processFrames c n s) := by
  induction n generalizing s with
  | zero => exact ⟨[], (List.append_nil _).symm, rfl, nofun⟩
  | succ n ih =>
    obtain ⟨new, hframes, hlength, heq⟩ := ih (frame c s)
    refine ⟨(frameOut c s, frameOut c s) :: new, ?_, congrArg (· + 1) hlength, ?_⟩
    · rw [processFrames, hframes, frame_frames, List.append_assoc, List.singleton_append]
    · exact List.forall_mem_cons.2 ⟨rfl, heq⟩

/-- `PROCESS` changes the voices, the frame stream and the draw count alone. -/
theorem processFrames_eq (c : ConfigOf α) (n : Nat) (s : State.Of α) :
    processFrames c n s =
      { s with voices := (processFrames c n s).voices, frames := (processFrames c n s).frames,
               draws := (processFrames c n s).draws } := by
  rw [← processFrames_params c n s, ← processFrames_sampleRate c n s, ← processFrames_lfoRetrig c n s,
    ← processFrames_cmdErr c n s, ← processFrames_responses c n s, ← processFrames_port c n s]

/-- Settles O32: each frame adds one pair (`processFrames_emitsPairs`), and `processFrames_eq` says what stays. -/
theorem processEmitsCountEqualPairs : Obligations.ProcessEmitsCountEqualPairs := by
  refine ⟨fun k s => ?_, fun s => rfl⟩
  obtain ⟨new, hframes, hlength, heq⟩ := processFrames_emitsPairs hw k.toNat s
  refine ⟨processFrames hw k.toNat s, new, exec_eq _ s, ?_, hlength, heq⟩
  rw [← hframes]
  exact processFrames_eq hw k.toNat s

theorem processFrames_add (c : ConfigOf α) (m n : Nat) (s : State.Of α) :
    processFrames c (m + n) s = processFrames c n (processFrames c m s) := by
  induction m generalizing s with
  | zero => rw [Nat.zero_add, processFrames]
  | succ m ih => rw [Nat.succ_add, processFrames, processFrames, ih]

theorem exec_process_ofNat {k : Nat} (hk : k < 2 ^ 16) (s : State) :
    exec (.process (BitVec.ofNat 32 k)) s = .next (processFrames hw k s) := by
  have hcount : (BitVec.ofNat 32 k).toNat = k := (BitVec.toNat_ofNat k 32).trans (Nat.mod_eq_of_lt (by omega))
  show execProcess _ s = _
  rw [execProcess, hcount]

/-- Settles O34: the frames of `m + n` are those of `m` and then those of `n` (`processFrames_add`). -/
theorem processSplitsIntoTwo : Obligations.ProcessSplitsIntoTwo := by
  intro m n s hmn
  refine ⟨_, _, exec_process_ofNat (by omega) s, exec_process_ofNat (by omega) _, ?_⟩
  rw [exec_process_ofNat hmn, processFrames_add]

/-! ### Inactive voices (R272) -/

theorem frameVoice_of_inactive (c : ConfigOf α) {a : α × State.Of α} {i : Fin 16} (h : active a.2 i = false) :
    frameVoice c a i = a := by
  simp [frameVoice, h]

/-- Voice `j` is inactive and as it is in `s`. -/
structure Frozen (s : State.Of α) (j : Fin 16) (t : State.Of α) : Prop where
  inactive : active t j = false
  same : t.voices[j] = s.voices[j]

theorem processFrames_frozen (c : ConfigOf α) (n : Nat) {s : State.Of α} {j : Fin 16} (h : active s j = false) :
    Frozen s j (processFrames c n s) := by
  have hturn (a : α × State.Of α) (i : Fin 16) (ha : Frozen s j a.2) : Frozen s j (frameVoice c a i).2 := by
    have hkeep : (frameVoice c a i).2.voices[j] = a.2.voices[j] := by
      rw [frameVoice_voice, if_neg]
      rintro ⟨-, hactive⟩
      exact Bool.false_ne_true (ha.inactive.symm.trans hactive)
    exact ⟨(congrArg voiceIsActive hkeep).trans ha.inactive, hkeep.trans ha.same⟩
  refine processFrames_keeps (P := Frozen s j) c (fun t ht => ?_) n s ⟨h, rfl⟩
  obtain ⟨hinactive, hsame⟩ := frameSum_keeps (P := Frozen s j) c hturn t ht
  have hvoice : (frame c t).voices[j] = (frameSum c t).2.voices[j] := by rw [frame_voices]
  exact ⟨(congrArg voiceIsActive hvoice).trans hinactive, hvoice.trans hsame⟩

section
variable (c : ConfigOf α) {s : State.Of α} (h : ∀ j : Fin 16, active s j = false) {z : α}
  (hz : c.num.mul (c.num.lit .zero) s.params.masterVol = z)
include h hz

/-- A silent engine emits the empty sum times `MASTER_VOL`, and does nothing else. -/
theorem frame_of_silent : frame c s = emit z z s := by
  have hskip : voiceIndices.foldl (frameVoice c) (c.num.lit .zero, s) = (c.num.lit .zero, s) :=
    List.foldl_fixed' (fun i => frameVoice_of_inactive c (h i)) voiceIndices
  rw [frame, frameSum, hskip, hz]

theorem processFrames_of_silent (n : Nat) :
    processFrames c n s = { s with frames := s.frames ++ List.replicate n (z, z) } := by
  induction n generalizing s with
  | zero => rw [List.replicate_zero, List.append_nil, processFrames]
  | succ n ih =>
    rw [processFrames, frame_of_silent c h hz, ih (s := emit z z s) h hz, emit_frames, List.append_assoc]
    rfl

end

/-- Settles O35: a frame skips an inactive voice (`processFrames_frozen`), and with every voice skipped the sum is +0.0. -/
theorem inactiveVoicesAreFrozen : Obligations.InactiveVoicesAreFrozen := by
  refine ⟨fun k s => ⟨processFrames hw k.toNat s, exec_eq _ s, fun j hj => (processFrames_frozen hw k.toNat hj).same⟩,
    fun k s h => ?_⟩
  exact congrArg Host.Outcome.next (processFrames_of_silent hw h rfl k.toNat)

/-! ### The loop over the voices (R272) -/

/-- The draws that the active voices among `is` take. -/
def drawsOver (s : State.Of α) (is : List (Fin 16)) : Nat := ((is.filter (active s)).map fun i => voiceDraws s.voices[i]).sum

/-- What the loop of `Frame` holds once it has gone from `s` through the voices `is`: the sum of their samples, those voices
processed, and their draws taken. -/
structure LoopPassed (c : ConfigOf α) (s : State.Of α) (is : List (Fin 16)) (a : α × State.Of α) : Prop where
  sum : a.1 = ((is.filter (active s)).map fun j => (voiceProcess c (drawsBefore s j) s.voices[j]).1).foldl c.num.add
    (c.num.lit .zero)
  voice : ∀ j : Fin 16, a.2.voices[j] =
    if j ∈ is ∧ active s j then (voiceProcess c (drawsBefore s j) s.voices[j]).2.1 else s.voices[j]
  draws : a.2.draws = s.draws + drawsOver s is

theorem loopPassed_nil (c : ConfigOf α) (s : State.Of α) : LoopPassed c s [] (c.num.lit .zero, s) where
  sum := rfl
  voice _ := (if_neg fun h => List.not_mem_nil h.1).symm
  draws := rfl

/-- The next voice is as it was in `s`, and is reached with the draws of the voices before it. -/
theorem LoopPassed.next {c : ConfigOf α} {s : State.Of α} {is : List (Fin 16)} {a : α × State.Of α} (h : LoopPassed c s is a)
    {i : Fin 16} (hi : i ∉ is) (hdraws : drawsBefore s i = s.draws + drawsOver s is) :
    LoopPassed c s (is ++ [i]) (frameVoice c a i) := by
  obtain ⟨hsum, hvoice, hcount⟩ := h
  have hvi : a.2.voices[i] = s.voices[i] := by rw [hvoice, if_neg fun h => hi h.1]
  have hreach : a.2.draws = drawsBefore s i := hcount.trans hdraws.symm
  have hactive : active a.2 i = active s i := congrArg voiceIsActive hvi
  have hturn := frameVoice_cases c a i
  rw [hactive, hvi, hreach] at hturn
  refine ⟨?_, fun j => ?_, ?_⟩
  · obtain ⟨hon, heq⟩ | ⟨hoff, heq⟩ := hturn
    · simp [heq, hon, hsum]
    · simp [heq, hoff, hsum]
  · rw [frameVoice_voice]
    by_cases hij : i = j
    · subst hij
      simp [hvi, hreach, active]
    · rw [if_neg fun h => hij h.1, hvoice]
      simp [Ne.symm hij]
  · obtain ⟨hon, heq⟩ | ⟨hoff, heq⟩ := hturn
    · simp [heq, drawsOver, hon, voiceProcess_draws, hdraws, Nat.add_assoc]
    · simp [heq, drawsOver, hoff, hcount]

/-- The voices before voice `j`. -/
theorem filter_lt_voiceIndices (j : Fin 16) : voiceIndices.filter (fun i => decide (i < j)) = voiceIndices.take j := by
  revert j
  decide

theorem drawsBefore_eq (s : State.Of α) (j : Fin 16) : drawsBefore s j = s.draws + drawsOver s (voiceIndices.take j) := by
  simp only [drawsBefore, drawsOver, ← filter_lt_voiceIndices, List.filter_filter, Bool.and_comm]

theorem take_succ_voiceIndices (j : Fin 16) : voiceIndices.take (j + 1) = voiceIndices.take j ++ [j] := by
  revert j
  decide

theorem not_mem_take_voiceIndices (j : Fin 16) : j ∉ voiceIndices.take j := by
  revert j
  decide

theorem loopPassed_take (c : ConfigOf α) (s : State.Of α) {k : Nat} (hk : k ≤ 16) :
    LoopPassed c s (voiceIndices.take k) ((voiceIndices.take k).foldl (frameVoice c) (c.num.lit .zero, s)) := by
  induction k with
  | zero => exact loopPassed_nil c s
  | succ k ih =>
    have hlast := (ih (by omega)).next (i := ⟨k, hk⟩) (not_mem_take_voiceIndices _) (drawsBefore_eq s _)
    rw [take_succ_voiceIndices ⟨k, hk⟩, List.foldl_append]
    exact hlast

theorem frameSum_passed (c : ConfigOf α) (s : State.Of α) : LoopPassed c s voiceIndices (frameSum c s) :=
  loopPassed_take c s le_rfl

/-- Settles O33: one frame is the loop passed through all the voices (`frameSum_passed`). -/
theorem frameIsTheSumOfTheActiveVoices : Obligations.FrameIsTheSumOfTheActiveVoices := by
  intro s
  obtain ⟨hsum, hvoice, hdraws⟩ := frameSum_passed hw s
  refine ⟨frame hw s, exec_eq _ s, fun j => ?_, ?_, ?_⟩
  · simp only [frame_voices, hvoice, mem_voiceIndices, true_and]
  · rw [frame_frames, frameOut, hsum]
    rfl
  · rw [frame_draws, hdraws, drawsOver]

end Machine
end Sys2Proof
end

section
/-! Which command makes a voice active or inactive (10_state.md R37, 46_voice_pool.md R266, R274). -/

namespace Sys2Proof

namespace Machine

/-- Every voice sounds as in `s`. -/
def SameSound (s t : State) : Prop := ∀ j : Fin 16, soundState t.voices[j] = soundState s.voices[j]

/-- Only the notes and `PROCESS` touch the sound of a voice (R290, R318 to R321). -/
theorem effect_sameSound {i : Instr} (hon : ∀ n vel, i ≠ .noteOn n vel) (hoff : ∀ n, i ≠ .noteOff n) (hproc : ∀ k, i ≠ .process k)
    (s : State) : SameSound s (effect hw i s) := by
  have same : SameSound s s := fun _ => rfl
  cases isCommand i with
  | nop => exact same
  | noteOn n vel => exact absurd rfl (hon n vel)
  | noteOff n => exact absurd rfl (hoff n)
  | process k => exact absurd rfl (hproc k)
  | bioHrv val => exact withReal_keeps (P := SameSound s) same fun _ => soundState_setParam RealParam.fltCutoff.isRegister _ s
  | bioCoh val => exact withReal_keeps (P := SameSound s) same fun _ => soundState_setParam RealParam.wtPos.isRegister _ s
  | setSampleRate val => exact withReal_keeps (P := SameSound s) same fun _ => soundState_putSampleRate _ s
  | setCtrl b => exact same
  | clrStatus b => cases b <;> exact same
  | real r val =>
    rw [r.effect_setter]
    exact withReal_keeps (P := SameSound s) same fun _ => soundState_setParam r.isRegister _ s
  | wave r k =>
    rw [r.effect_setter]
    exact soundState_setParam r.isRegister k s
  | table t => exact soundState_setParam wtTable_isRegister t s
  | rd a =>
    obtain ⟨err, w, heq⟩ := rd_eq a s
    rw [show effect hw (.rd a) s = rd binary32 a s from rfl, heq]
    exact same

theorem active_effect_cases (i : Instr) (s : State) (v : Fin 16) :
    active (effect hw i s) v = active s v ∨ (∃ k, i = .process k ∧ active (effect hw i s) v = false) ∨
      ∃ n vel, i = .noteOn n vel ∧ v = allocate s := by
  cases i with
  | noteOn n vel =>
    by_cases hv : v = allocate s
    · exact .inr (.inr ⟨n, vel, rfl, hv⟩)
    · exact .inl (congrArg voiceIsActive (noteOn_voice_other hw n vel s hv))
  | noteOff n => exact .inl (active_noteOff n s v)
  | process k =>
    cases hbefore : active s v with
    | false => exact .inl (processFrames_frozen hw k.toNat hbefore).inactive
    | true =>
      cases hafter : active (effect hw (.process k) s) v with
      | false => exact .inr (.inl ⟨k, rfl, rfl⟩)
      | true => exact .inl rfl
  | _ => exact .inl (voiceIsActive_of_soundState (effect_sameSound (by simp) (by simp) (by simp) s v))

/-- Settles O36: of the three cases of `active_effect_cases`, `PROCESS` alone ends a voice, and the note alone starts one. -/
theorem onlyProcessDeactivatesAVoice : Obligations.OnlyProcessDeactivatesAVoice := by
  intro i s t v hexec
  rw [← eq_of_next ((exec_eq i s).symm.trans hexec)]
  obtain hsame | ⟨k, rfl, hinactive⟩ | ⟨n, vel, rfl, hv⟩ := active_effect_cases i s v
  · rw [hsame]
    exact ⟨fun h h' => (nomatch h.symm.trans h'), fun h h' => (nomatch h.symm.trans h')⟩
  · exact ⟨fun _ _ => ⟨k, rfl⟩, fun _ h => (nomatch h.symm.trans hinactive)⟩
  · have hactive : active (noteOn hw n vel s) v = true := by rw [active_noteOn, hv, decide_eq_true rfl, Bool.true_or]
    exact ⟨fun _ h => (nomatch hactive.symm.trans h), fun _ _ => ⟨n, vel, rfl, hv⟩⟩

end Machine
end Sys2Proof
end

section
/-! The setters of the parameter registers in every configuration of the default format (47_parameter_commands.md R290 to R318):
`RealParam` and `WaveParam` give each its address, register and copy, and the effect is proved once, of every register. Before
them the ends of a cross-fade (45_voice.md R253), which are exact in value. -/

namespace Sys2Proof

namespace F

/-- Clamping twice is clamping once, whatever the operand, when the bounds are not the wrong way round (R15). -/
theorem clamp_clamp_of_not_lt {x lo hi : F} (h : hi.lt lo = false) : (x.clamp lo hi).clamp lo hi = x.clamp lo hi := by
  have hirrefl (y : F) : y.lt y = false := by simp [lt]
  rw [clamp_eq x]
  split_ifs with hlo hhi
  · rw [clamp_eq, hirrefl, h]
    rfl
  · rw [clamp_eq, hirrefl, h]
    rfl
  · rw [clamp_eq, if_neg hlo, if_neg hhi]

/-- Multiplying by 1.0 is exact (R13). -/
theorem mul_one_scaled {a : F} (ha : a.isFinite = true) : (a.mul one).scaled = a.scaled := by
  have hone : one.isFinite = true := by decide
  have hunit : one.scaled = unit := by decide +kernel
  have hnan := isFinite_not_isNaN ha
  exact le_antisymm (mul_scaled_le ha hone a hnan (by rw [hunit])) (le_mul_scaled ha hone a hnan (by rw [hunit]))

theorem mul_one_isFinite {a : F} (ha : a.isFinite = true) : (a.mul one).isFinite = true := by
  rwa [mag_lt_inf_iff, ← scaled_natAbs, mul_one_scaled ha, scaled_natAbs, ← mag_lt_inf_iff]

/-- A sum that some number equals is that number in value (R13). -/
theorem add_eqv_of_scaled {a b : F} (ha : a.isFinite = true) (hb : b.isFinite = true) {y : F} (hy : y.isNaN = false)
    (h : a.scaled + b.scaled = y.scaled) : (a.add b).eqv y = true :=
  eqv_iff.2 ⟨add_not_isNaN ha hb, hy, le_antisymm (add_scaled_le ha hb y hy h.le) (le_add_scaled ha hb y hy h.ge)⟩

end F

namespace Machine

open F

/-! ### The ends of a cross-fade (R253) -/

section
variable {a b : F} (ha : a.isFinite = true) (hb : b.isFinite = true)
include ha hb

theorem crossFade_zero_eqv : (crossFade binary32 a b F.zero).eqv a = true := by
  have hzero : (b.mul F.zero).mag = 0 := mul_mag_zero hb (by decide) (.inr (by decide))
  rw [crossFade_eq, show F.one.sub F.zero = F.one by decide +kernel]
  exact add_eqv_of_scaled (mul_one_isFinite ha) (isFinite_of_mag_zero hzero) (isFinite_not_isNaN ha)
    (by rw [mul_one_scaled ha, scaled_of_mag_zero hzero, add_zero])

theorem crossFade_one_eqv : (crossFade binary32 a b F.one).eqv b = true := by
  have hzero : (a.mul F.zero).mag = 0 := mul_mag_zero ha (by decide) (.inr (by decide))
  rw [crossFade_eq, show F.one.sub F.one = F.zero by decide +kernel]
  exact add_eqv_of_scaled (isFinite_of_mag_zero hzero) (mul_one_isFinite hb) (isFinite_not_isNaN hb)
    (by rw [mul_one_scaled hb, scaled_of_mag_zero hzero, zero_add])

end

/-! ### The common shape (R290) -/

theorem setParam_congr {β : Type} {x : β} {copy copy' : Voice → β → Voice} (h : ∀ v, copy v x = copy' v x)
    (store : Params → β → Params) (s : State) : setParam x store copy s = setParam x store copy' s := by
  unfold setParam
  rw [mapVoices_congr _ (fun v => copy' v x) _ fun i => h _]

/-- A setter whose effect is to store the clamped value and give it to every voice, unless the operand is a NaN. -/
theorem isRealSetter_of_effect {a : BitVec 8} {mk : F → Instr} {lo hi : Config → F} {store : Params → F → Params}
    {copy : Voice → F → Voice}
    (hdecode : ∀ d : Word, decode (writeWord a d) = if (F.mk d).isNaN then .error .nanOperand else .ok (mk ⟨d⟩))
    (hbounds : (hi hw).lt (lo hw) = false)
    (hreal : ∀ c : Config, c.num = binary32 → (hi c).lt (lo c) = false → ∀ (val : F) (s : State), val.isNaN = false →
      effect c (mk val) s = setParam (val.clamp (lo c) (hi c)) store copy s)
    (hnan : ∀ (c : Config) (val : F) (s : State), val.isNaN = true → effect c (mk val) s = { s with cmdErr := true }) :
    IsRealSetter a mk lo hi store copy := by
  refine ⟨hdecode,
    fun val s hval => ⟨_, (exec_eq _ s).trans (congrArg _ (hreal hw rfl hbounds val s hval)), setParam_eq _ _ _ s⟩,
    fun val s hval => (exec_eq _ s).trans (congrArg _ (hnan hw val s hval)),
    fun d s hd => runWord_of_error ((hdecode d).trans (if_pos hd)) s,
    fun c hnum hc val s => ⟨fun hval => ?_, hnan c val s⟩⟩
  obtain ⟨hframe, hvoices⟩ := setParam_eq (val.clamp (lo c) (hi c)) store copy s
  rw [hreal c hnum hc val s hval]
  exact ⟨rfl, hframe, hvoices⟩

theorem isIndexSetter_of_effect {β : Type} {a : BitVec 8} {mk : β → Instr} {read : BitVec 3 → β}
    {store : Params → β → Params} {copy : Voice → β → Voice}
    (hdecode : ∀ d : Word, decode (writeWord a d) = .ok (mk (read (d.extractLsb' 0 3))))
    (heffect : ∀ (x : β) (s : State), effect hw (mk x) s = setParam x store copy s) : IsIndexSetter a mk read store copy :=
  ⟨hdecode, fun x s => ⟨_, (exec_eq _ s).trans (congrArg _ (heffect x s)), setParam_eq x store copy s⟩⟩

/-! ### The registers that hold a number -/

/-- The decoder's line of a command that takes a number (R115 (f)). -/
theorem decode_real {c : WriteCommand} (h : c.format = .F) (d : Word) :
    decode (writeWord c.address d) =
      if (F.mk d).isNaN then .error .nanOperand else .ok (c.command Config.frameCountBitsDefault d) := by
  rw [decode_writeWord, WriteCommand.decodeWrite_of_real h]

namespace RealParam

/-- The bounds of the register's domain in the configuration `c` (R8, R31). -/
def boundsIn (r : RealParam) (c : Config) : F × F :=
  match r with
  | fltDrive => (F.zero, c.driveMax)
  | ampAttack | ampDecay | ampRelease | fenvAttack | fenvDecay | fenvRelease => (c.tMin, c.tMax)
  | r => r.bounds

/-- A voice with `x`, as it is, for its copy of the register; a time recomputes the rates of its envelope (R46). -/
def give (r : RealParam) (v : Voice) (x : F) : Voice :=
  match r with
  | osc1Detune => { v with osc1 := { v.osc1 with detune := x } }
  | osc2Detune => { v with osc2 := { v.osc2 with detune := x } }
  | osc1Pw => { v with osc1 := { v.osc1 with pw := x } }
  | osc2Pw => { v with osc2 := { v.osc2 with pw := x } }
  | oscMix => { v with oscMix := x }
  | wtMix => { v with wtMix := x }
  | wtPos => { v with wt := { v.wt with morph := x } }
  | fltCutoff => { v with baseCutoff := x }
  | fltRes => { v with flt := { v.flt with res := x } }
  | fltEnvAmt => { v with envAmt := x }
  | fltDrive => { v with flt := { v.flt with drive := x } }
  | ampAttack => { v with ampEnv := envRecompute binary32 { v.ampEnv with attackMs := x } }
  | ampDecay => { v with ampEnv := envRecompute binary32 { v.ampEnv with decayMs := x } }
  | ampSustain => { v with ampEnv := { v.ampEnv with sustain := x } }
  | ampRelease => { v with ampEnv := envRecompute binary32 { v.ampEnv with releaseMs := x } }
  | fenvAttack => { v with fltEnv := envRecompute binary32 { v.fltEnv with attackMs := x } }
  | fenvDecay => { v with fltEnv := envRecompute binary32 { v.fltEnv with decayMs := x } }
  | fenvSustain => { v with fltEnv := { v.fltEnv with sustain := x } }
  | fenvRelease => { v with fltEnv := envRecompute binary32 { v.fltEnv with releaseMs := x } }
  | lfoRate => { v with lfo := { v.lfo with rate := x } }
  | lfoToFilter => { v with lfoToFlt := x }
  | lfoToPitch => { v with lfoToPitch := x }
  | masterVol => v

theorem boundsIn_hw_not_lt (r : RealParam) : (r.boundsIn hw).2.lt (r.boundsIn hw).1 = false := by cases r <;> decide

/-- The setter is the common shape of R290 with the register's bounds, and the component's own clamp, which has the same
bounds, leaves a value of the domain as it is. -/
theorem effect_setter_in (r : RealParam) {c : Config} (hnum : c.num = binary32) (val : F) (s : State) :
    ∃ copy : Voice → F → Voice,
      effect c (r.setter val) s = setReal binary32 val (r.boundsIn c).1 (r.boundsIn c).2 r.store copy s ∧
      ∀ v x, x.clamp (r.boundsIn c).1 (r.boundsIn c).2 = x → copy v x = r.give v x := by
  obtain ⟨num⟩ := c
  obtain rfl : num = binary32 := hnum
  cases r <;> refine ⟨_, rfl, fun v x hx => ?_⟩ <;>
    simp_all [give, boundsIn, bounds, oscSetDetune, oscSetPulseWidth, wtSetPosition, fltSetResonance, fltSetDrive,
      envSetAttack, envSetDecay, envSetSustain, envSetRelease, clampTime, lfoSetRate]

theorem effect_setter_real (r : RealParam) {c : Config} (hnum : c.num = binary32)
    (hbounds : (r.boundsIn c).2.lt (r.boundsIn c).1 = false) {val : F} (hval : val.isNaN = false) (s : State) :
    effect c (r.setter val) s = setParam (val.clamp (r.boundsIn c).1 (r.boundsIn c).2) r.store r.give s := by
  obtain ⟨copy, heffect, hcopy⟩ := r.effect_setter_in hnum val s
  rw [heffect, setReal_real _ _ _ _ _ _ _ hval]
  exact setParam_congr (fun v => hcopy v _ (clamp_clamp_of_not_lt hbounds)) _ s

theorem effect_setter_nan (r : RealParam) (c : Config) {val : F} (hval : val.isNaN = true) (s : State) :
    effect c (r.setter val) s = { s with cmdErr := true } := by
  cases r <;> exact setReal_nan _ _ _ _ _ _ _ hval

theorem isRealSetter (r : RealParam) :
    IsRealSetter r.address r.setter (fun c => (r.boundsIn c).1) (fun c => (r.boundsIn c).2) r.store r.give :=
  isRealSetter_of_effect (decode_real (c := .real r) rfl) r.boundsIn_hw_not_lt
    (fun _ hnum hbounds _ s hval => r.effect_setter_real hnum hbounds hval s)
    (fun c _ s hval => r.effect_setter_nan c hval s)

end RealParam

theorem WaveParam.isIndexSetter (r : WaveParam) :
    IsIndexSetter r.address r.setter WaveformKind.ofCode r.store r.copy :=
  isIndexSetter_of_effect
    (fun d => (decode_writeWord _ d).trans (WriteCommand.decodeWrite_of_ne_real (c := .wave r) nofun _ d)) r.effect_setter

/-! ### The obligations -/

/-- Settles O13: the setters are those of six registers, and a shape reads only what its formula names. -/
theorem oscillatorSetters : Obligations.OscillatorSetters := by
  refine ⟨WaveParam.osc1Wave.isIndexSetter, WaveParam.osc2Wave.isIndexSetter, RealParam.osc1Detune.isRealSetter,
    RealParam.osc2Detune.isRealSetter, RealParam.osc1Pw.isRealSetter, RealParam.osc2Pw.isRealSetter,
    fun α c n k p dt pw pw' d d' => ⟨fun h => ?_, fun h => ?_⟩⟩
  · cases k with
    | superSaw => exact absurd rfl h
    | _ => rfl
  · cases k with
    | pwm => exact absurd rfl h
    | _ => rfl

/-- Settles O14: the setters of four registers, `BIO_COH` being that of `WT_POS` at another address. -/
theorem mixAndWavetableSetters : Obligations.MixAndWavetableSetters :=
  ⟨RealParam.oscMix.isRealSetter, RealParam.wtMix.isRealSetter,
    isIndexSetter_of_effect (fun d => decode_writeWord _ d) fun _ _ => rfl, RealParam.wtPos.isRealSetter,
    isRealSetter_of_effect (decode_real (c := .bioCoh) rfl) RealParam.wtPos.boundsIn_hw_not_lt
      (fun _ hnum hbounds _ s hval => RealParam.wtPos.effect_setter_real hnum hbounds hval s)
      (fun c _ s hval => RealParam.wtPos.effect_setter_nan c hval s),
    fun _ _ => rfl, fun _ _ ha hb => ⟨crossFade_zero_eqv ha hb, crossFade_one_eqv ha hb⟩⟩

/-- Settles O15: the setters of four registers; the cutoff's has no component setter, so it reaches the base cutoff only. -/
theorem filterSetters : Obligations.FilterSetters :=
  ⟨RealParam.fltCutoff.isRealSetter, RealParam.fltRes.isRealSetter, RealParam.fltEnvAmt.isRealSetter,
    RealParam.fltDrive.isRealSetter, rfl⟩

/-- Settles O16: the setters of four registers; a time goes through `envRecompute`, which writes the three rates. -/
theorem amplitudeEnvelopeSetters : Obligations.AmplitudeEnvelopeSetters :=
  ⟨RealParam.ampAttack.isRealSetter, RealParam.ampDecay.isRealSetter, RealParam.ampSustain.isRealSetter,
    RealParam.ampRelease.isRealSetter, rfl, rfl⟩

/-- Settles O17: as O16, for the filter envelope. -/
theorem filterEnvelopeSetters : Obligations.FilterEnvelopeSetters :=
  ⟨RealParam.fenvAttack.isRealSetter, RealParam.fenvDecay.isRealSetter, RealParam.fenvSustain.isRealSetter,
    RealParam.fenvRelease.isRealSetter, rfl, rfl⟩

/-- Settles O18: the setters of five registers, of which the master volume gives no voice anything. -/
theorem lfoAndVolumeSetters : Obligations.LfoAndVolumeSetters :=
  ⟨RealParam.lfoRate.isRealSetter, WaveParam.lfoWave.isIndexSetter, RealParam.lfoToFilter.isRealSetter,
    RealParam.lfoToPitch.isRealSetter, RealParam.masterVol.isRealSetter⟩

end Machine
end Sys2Proof
end

section
/-! `SET_SAMPLE_RATE` in every configuration of the default format (47_parameter_commands.md R318), and the setters with the value
that the register holds (10_state.md R44, R46, R52). -/

namespace Sys2Proof

namespace Machine

/-! ### `SET_SAMPLE_RATE` (R318) -/

theorem decode_setSampleRate (d : Word) :
    decode (writeWord 0x08#8 d) = if (F.mk d).isNaN then .error .nanOperand else .ok (.setSampleRate ⟨d⟩) :=
  decode_real (c := .sampleRate) rfl d

theorem effect_setSampleRate {c : Config} (hnum : c.num = binary32) {val : F} (hval : val.isNaN = false) (s : State) :
    effect c (.setSampleRate val) s = putSampleRate binary32 (val.clamp c.fsMin c.fsMax) s := by
  show setSampleRate c val s = _
  rw [setSampleRate, withReal_real _ _ _ _ _ hval, hnum]
  rfl

theorem effect_setSampleRate_of_isNaN (c : Config) {val : F} (hval : val.isNaN = true) (s : State) :
    effect c (.setSampleRate val) s = { s with cmdErr := true } :=
  withReal_nan c.num val (fun x => c.num.clamp x c.fsMin c.fsMax) (putSampleRate c.num) s hval

/-- The frame of `SET_SAMPLE_RATE`. -/
theorem putSampleRate_eq (x : F) (s : State) :
    putSampleRate binary32 x s = { s with sampleRate := x, voices := (putSampleRate binary32 x s).voices } ∧
      ∀ j : Fin 16, (putSampleRate binary32 x s).voices[j] = voiceSetSampleRate binary32 s.voices[j] x := by
  refine ⟨rfl, fun j => ?_⟩
  rw [putSampleRate_voices, Fin.getElem_fin, mapVoices_get]
  rfl

/-- Settles O19: the command is `putSampleRate` of the clamped rate, and a voice receives it through `voiceSetSampleRate`. -/
theorem sampleRateReachesEveryComponent : Obligations.SampleRateReachesEveryComponent := by
  refine ⟨decode_setSampleRate,
    fun val s hval => ⟨_, (exec_eq _ s).trans (congrArg _ (effect_setSampleRate rfl hval s)), putSampleRate_eq _ s⟩,
    fun val s hval => (exec_eq _ s).trans (congrArg _ (effect_setSampleRate_of_isNaN hw hval s)),
    fun d s hd => runWord_of_error ((decode_setSampleRate d).trans (if_pos hd)) s,
    fun c hnum val s => ⟨fun hval => ?_, fun hval => effect_setSampleRate_of_isNaN c hval s⟩⟩
  dsimp only
  rw [effect_setSampleRate hnum hval]
  exact putSampleRate_eq _ s

/-! ### Writing the value held (R44, R46, R52) -/

theorem mapVoices_eq_self {f : Voice → Voice} {vs : Vector Voice 16} (h : ∀ i : Fin 16, f vs[i] = vs[i]) :
    mapVoices f vs = vs := by
  ext i hi
  rw [mapVoices_get]
  exact h ⟨i, hi⟩

section
variable {s : State} (h : EngineInv s)
include h

/-- Given the value its register holds, a voice keeps its sound and its copies, so it stays the voice it is. -/
theorem setParam_held {β : Type} {a : BitVec 8} {ok : β → Prop} {word : β → Word} {store : Params → β → Params}
    {copy : Voice → β → Voice} (hreg : IsRegister a ok word store copy) {x : β} (hx : ok x)
    (hheld : store s.params x = s.params) : setParam x store copy s = s := by
  obtain ⟨-, hcopies, -⟩ := h
  unfold setParam
  rw [hheld, mapVoices_eq_self fun i =>
    voice_eq_of_copies (hheld ▸ hreg.copies _ _ _ x hx (hcopies i)) (hcopies i) (hreg.sound _ x)]

theorem RealParam.exec_held (r : RealParam) : exec (r.setter (r.value s.params)) s = .next s := by
  rw [exec_eq, r.effect_setter, setReal_real _ _ _ _ _ _ _ (h.1.value r).isNaN]
  show (.next (setParam ((r.value s.params).clamp r.bounds.1 r.bounds.2) r.store r.copy s) : Result) = .next s
  rw [h.1.clamp_value r, setParam_held h r.isRegister (h.1.value r) (by cases r <;> rfl)]

theorem WaveParam.exec_held (r : WaveParam) {k : WaveformKind} (hheld : r.store s.params k = s.params) :
    exec (r.setter k) s = .next s := by
  rw [exec_eq, r.effect_setter, setParam_held h r.isRegister trivial hheld]

theorem exec_setWtTable_held : exec (.setWtTable s.params.wtTable) s = .next s :=
  congrArg _ (setParam_held h wtTable_isRegister trivial rfl)

theorem exec_setSampleRate_held : exec (.setSampleRate s.sampleRate) s = .next s := by
  have hrate := h.1.sampleRate
  obtain ⟨-, hcopies, -⟩ := h
  rw [exec_eq, effect_setSampleRate rfl hrate.isNaN, F.clamp_of_within hrate, putSampleRate,
    mapVoices_eq_self fun i => voice_eq_of_copies (voiceCopies_voiceSetSampleRate _ (hcopies i)) (hcopies i) rfl]

end

/-- Settles O24: a voice is its sound, which no setter touches, and its copies, which already hold the value written. -/
theorem writingTheHeldValueChangesNothing : Obligations.WritingTheHeldValueChangesNothing := fun _ h =>
  ⟨WaveParam.osc1Wave.exec_held h rfl, WaveParam.osc2Wave.exec_held h rfl, RealParam.osc1Detune.exec_held h,
    RealParam.osc2Detune.exec_held h, RealParam.osc1Pw.exec_held h, RealParam.osc2Pw.exec_held h, RealParam.oscMix.exec_held h,
    RealParam.wtMix.exec_held h, exec_setWtTable_held h, RealParam.wtPos.exec_held h, RealParam.fltCutoff.exec_held h,
    RealParam.fltRes.exec_held h, RealParam.fltEnvAmt.exec_held h, RealParam.fltDrive.exec_held h,
    RealParam.ampAttack.exec_held h, RealParam.ampDecay.exec_held h, RealParam.ampSustain.exec_held h,
    RealParam.ampRelease.exec_held h, RealParam.fenvAttack.exec_held h, RealParam.fenvDecay.exec_held h,
    RealParam.fenvSustain.exec_held h, RealParam.fenvRelease.exec_held h, RealParam.lfoRate.exec_held h,
    WaveParam.lfoWave.exec_held h rfl, RealParam.lfoToFilter.exec_held h, RealParam.lfoToPitch.exec_held h,
    RealParam.masterVol.exec_held h, exec_setSampleRate_held h, rfl⟩

end Machine
end Sys2Proof
end

section
/-! The register read and `RD` (47_parameter_commands.md R321, R323), the control commands and `NOP` (R319, R320, R322), and
`CMDERR` (60_exceptions.md R352, R357). -/

namespace Sys2Proof

namespace Machine

/-! ### The register read (R323) -/

/-- An address that is neither that of a control or status register nor a parameter's nor a voice's reads zero. -/
theorem regRead_of_out {a : BitVec 8} (hcontrol : ¬ (0x08 ≤ a.toNat ∧ a.toNat ≤ 0x0B))
    (hparam : ¬ (0x10 ≤ a.toNat ∧ a.toNat ≤ 0x2A)) (hvoice : ¬ (0x40 ≤ a.toNat ∧ a.toNat < 0x50)) (s : State) :
    regRead a s = 0#32 := by
  unfold regRead regReadIn
  rw [if_neg (by omega), if_neg (by omega), if_neg (by omega), if_neg (by omega), dif_neg hvoice, paramRead_of_out _ hparam]

theorem flagWord_toNat (b : Bool) : (0#31 ++ BitVec.ofBool b : Word).toNat = if b then 1 else 0 := by cases b <;> rfl

theorem activeWord_getLsbD (s : State) (v : Fin 16) : (activeWord s).getLsbD v = active s v := by
  rw [activeWord, BitVec.getLsbD_append, if_pos v.isLt, BitVec.getLsbD_ofFnLE, dif_pos v.isLt]

theorem activeWord_lt (s : State) : (activeWord s).toNat < 2 ^ 16 := by
  rw [activeWord, toNat_append_eq, BitVec.toNat_ofNat, Nat.zero_mod, zero_mul, zero_add]
  exact BitVec.isLt _

/-- `RD` at an address that is not mapped is the rejection of its word (log 14). -/
theorem exec_rd_of_unmapped {a : BitVec 8} (h : mapped a = false) (s : State) :
    exec (.rd a) s = .next (reject .badRead s) := by
  show (.next (rd binary32 a s) : Result) = _
  rw [rd, h]
  rfl

theorem exec_rd_of_mapped {a : BitVec 8} (h : mapped a = true) (s : State) :
    exec (.rd a) s = .next (respond (regRead a s) s) := by
  show (.next (rd binary32 a s) : Result) = _
  rw [rd, h]
  rfl

/-- Settles O22: a parameter register reads as its word (`paramRead`), and what no line of R323 names reads zero. -/
theorem registerReadLayout : Obligations.RegisterReadLayout := by
  intro s
  refine ⟨fun a ha => regRead_of_out (by omega) (by omega) (by omega) s, rfl, flagWord_toNat _, flagWord_toNat _,
    activeWord_getLsbD s, activeWord_lt s, kWord_toNat _, kWord_toNat _, rfl, rfl, rfl, rfl, rfl, rfl, kWord_toNat _,
    rfl, rfl, rfl, rfl, rfl, rfl, rfl, rfl, rfl, rfl, rfl, rfl, rfl, rfl, kWord_toNat _, rfl, rfl, rfl,
    fun v => ?_, fun a ha => ⟨?_, ?_⟩⟩
  · rw [regRead_voiceStat, voiceStatWord_toNat]
  · obtain ⟨hwo, hrw, hrc, hro⟩ := accessOf_iff a
    simp only [ha, reduceCtorEq, false_iff] at hwo hrw hrc hro
    exact regRead_of_out (by omega) (by omega) (by omega) s
  · exact exec_rd_of_unmapped (by rw [mapped, ha]; rfl) s

/-- Settles O21: `RD` responds with `regRead`, and the word of an unmapped read is rejected as a read. -/
theorem readRespondsAndChangesNothingElse : Obligations.ReadRespondsAndChangesNothingElse := by
  refine ⟨decode_readWord, fun a s => (exec_rd_of_mapped · s), fun a d s h => ?_, fun s h => congrArg F.bits h⟩
  exact runWord_of_error ((decode_readWord a d).trans (by rw [h]; rfl)) s

/-! ### `NOP` and the control commands (R319, R320, R322) -/

/-- Settles O11: the zero word is the only accepted one with `OPC` 0 (`Accepted.eq_zero`). -/
theorem nopChangesNothing : Obligations.NopChangesNothing :=
  ⟨rfl, rfl, fun _ => rfl, fun _ hopc hne => exists_error_iff.2 fun _ hacc => hne (hacc.eq_zero hopc)⟩

/-- Settles O12: each command's operand is bit 0 of `DATA`, and `CTRL` reads as one flag (`flagWord_toNat`). -/
theorem controlCommandsSetAndClearTheirBit : Obligations.ControlCommandsSetAndClearTheirBit :=
  ⟨fun d => ⟨decode_writeWord _ d, decode_writeWord _ d⟩, fun _ _ => rfl, fun _ => ⟨rfl, rfl⟩, fun _ => flagWord_toNat _⟩

/-! ### `CMDERR` (R352, R357) -/

theorem withReal_cmdErr {val : F} (hval : val.isNaN = false) {conform : F → F} {act : F → State → State}
    {s : State} (hact : ∀ x, (act x s).cmdErr = s.cmdErr) : (withReal binary32 val conform act s).cmdErr = s.cmdErr := by
  rw [withReal_real _ _ _ _ _ hval, hact]

/-- An accepted command keeps `CMDERR`, `CLR_STATUS` with a 1 apart: its operand is no NaN, and its read is mapped. -/
theorem effect_cmdErr_of_accepted {bits : Nat} {w : CommandWord} {i : Instr} (h : Accepted bits w i)
    (hclr : i ≠ .clrStatus true) (s : State) : (effect hw i s).cmdErr = s.cmdErr := by
  cases h with
  | nop => rfl
  | rd h d =>
    show (rd binary32 _ s).cmdErr = _
    rw [rd, if_pos h, respond_cmdErr]
  | @write c d hacc =>
    cases c with
    | noteOn | noteOff | ctrl | wtTable => rfl
    | process => exact processFrames_cmdErr _ _ _
    | bioHrv | bioCoh | sampleRate => exact withReal_cmdErr (hacc rfl) fun _ => rfl
    | status =>
      have hbit : Operand.bit0 d = false := by
        rw [← Bool.not_eq_true]
        exact fun hbit => hclr (congrArg Instr.clrStatus hbit)
      show (clrStatus (Operand.bit0 d) s).cmdErr = _
      rw [hbit]
      rfl
    | wave r =>
      show (effect hw (r.setter _) s).cmdErr = _
      rw [r.effect_setter, setParam_cmdErr]
    | real r =>
      show (effect hw (r.setter _) s).cmdErr = _
      rw [r.effect_setter]
      exact withReal_cmdErr (hacc rfl) fun _ => rfl

/-- Settles O26: a rejection sets the flag, and `effect_cmdErr_of_accepted` says what an accepted word does. -/
theorem commandErrorIsSticky : Obligations.CommandErrorIsSticky := by
  intro s t w rest hport hstep
  rw [step_cons s w rest hport] at hstep
  cases hdecode : decode w with
  | error r =>
    rw [runWord_of_error hdecode] at hstep
    rw [← eq_of_next hstep]
    exact reject_cmdErr _ _
  | ok i =>
    rw [runWord_of_ok hdecode, exec_eq] at hstep
    rw [← eq_of_next hstep]
    split
    case h_1 herror => cases herror
    case h_2 hok =>
      cases hok
      rfl
    case h_3 j hne hok =>
      cases hok
      exact effect_cmdErr_of_accepted (accepted_of_decodeIn hdecode) hne _

/-! ### Which commands leave the sound, the frames and the draws (R290, R318 to R321) -/

/-- `PROCESS` alone draws noise (R20, R156). -/
theorem effect_draws {i : Instr} (hproc : ∀ k, i ≠ .process k) (s : State) : (effect hw i s).draws = s.draws := by
  have hreal {val : F} {conform : F → F} {act : F → State → State} (hact : ∀ x, (act x s).draws = s.draws) :
      (withReal binary32 val conform act s).draws = s.draws :=
    withReal_keeps (P := fun t => t.draws = s.draws) rfl fun _ => hact _
  cases isCommand i with
  | nop | noteOn | noteOff | setCtrl | table => rfl
  | process k => exact absurd rfl (hproc k)
  | bioHrv | bioCoh | setSampleRate => exact hreal fun _ => rfl
  | clrStatus b => cases b <;> rfl
  | real r val =>
    rw [r.effect_setter]
    exact hreal fun _ => rfl
  | wave r k => rw [r.effect_setter, setParam_draws]
  | rd a =>
    obtain ⟨err, w, heq⟩ := rd_eq a s
    rw [show effect hw (.rd a) s = rd binary32 a s from rfl, heq]

/-- Settles O25: `effect_sameSound` for the voices, `effect_streams` for the frames and `effect_draws` for the draws. -/
theorem onlyNotesAndProcessTouchTheSound : Obligations.OnlyNotesAndProcessTouchTheSound := by
  intro i s t hexec hon hoff hproc
  rw [← eq_of_next ((exec_eq i s).symm.trans hexec)]
  obtain ⟨-, hframes, -⟩ := effect_streams i s
  exact ⟨effect_sameSound hon hoff hproc s, hframes hproc, effect_draws hproc s⟩

/-! ### Every step answers a next state (R350, R365) -/

theorem stepIn_nil {α : Type} (c : ConfigOf α) {s : State.Of α} (h : s.port = []) : stepIn c s = s := by
  simp only [stepIn, h]

theorem stepIn_cons {α : Type} (c : ConfigOf α) {s : State.Of α} {w : CommandWord} {rest : List CommandWord}
    (h : s.port = w :: rest) : stepIn c s = effectWord c w { s with port := rest } := by
  simp only [stepIn, h]

/-- Settles O10: `exec` and `step` are `effect` and `stepIn` at `hw`, and these are total functions. -/
theorem everyStepAnswersANextState : Obligations.EveryStepAnswersANextState := by
  refine ⟨fun i s => ⟨_, exec_eq i s⟩, fun s => ⟨_, step_eq s⟩, exec_eq, step_eq, reset_eq, hw_num,
    fun α c s => ⟨stepIn_nil c, fun w rest hport => ⟨fun i hi => ?_, fun r hr => ?_⟩⟩⟩
  · rw [stepIn_cons c hport, effectWord, hi]
  · rw [stepIn_cons c hport, effectWord, hr]

end Machine
end Sys2Proof
end
